-- ==== Sys2Proof/Word.lean ====
section
/-! DEFINITION. The widths of the hardware's values (spec/00_scope.md R10, R13: all values are unsigned). -/

namespace Sys2Proof

/-- A memory byte, a general register, a timer (R10: REG_BITS, TIMER_BITS). -/
abbrev Byte := BitVec 8

/-- An instruction word, the index register I, the pc, a stack entry (R10, R11). -/
abbrev Word := BitVec 16

/-- A register index `x` or `y`, 0x0 to 0xF (30_encoding.md R101). -/
abbrev Reg := BitVec 4

/-- The row count `n` of Dxyn (30_encoding.md R101). -/
abbrev Count := BitVec 4

/-- The address immediate `nnn` (30_encoding.md R101). -/
abbrev Addr := BitVec 12

/-- Register VF, the flag register (10_state.md R32). -/
abbrev VF : Reg := 0xF#4

end Sys2Proof
end

