-- ==== Sys2Proof/WellFormed.lean ====
section
/-! DEFINITION. Well-formedness checks: which 16-bit words the opcode map of 30_encoding.md R104 matches, and
which Load requests fit memory (20_memory.md R90).  An `Instr` needs no check of its own: the ranges of its
operands (30_encoding.md R103) are carried by their types, so every term of the type is an instruction. -/

namespace Sys2Proof

/-- One row of the opcode map (30_encoding.md R104): a word matches when `word AND mask = pattern`. -/
structure OpcodeRow where
  pattern : Word
  mask : Word
  deriving DecidableEq, Repr

/-- The word has the row's fixed hex digits (R104). -/
def OpcodeRow.admits (r : OpcodeRow) (w : Word) : Bool := w &&& r.mask == r.pattern

/-- The rows for 00E0 to 7xkk, in the order of R104. -/
def opcodeRowsLow : List OpcodeRow :=
  [⟨0x00E0, 0xFFFF⟩, ⟨0x00EE, 0xFFFF⟩, ⟨0x1000, 0xF000⟩, ⟨0x2000, 0xF000⟩, ⟨0x3000, 0xF000⟩, ⟨0x4000, 0xF000⟩,
   ⟨0x5000, 0xF00F⟩, ⟨0x6000, 0xF000⟩, ⟨0x7000, 0xF000⟩]

/-- The rows for 8xy0 to Dxyn, in the order of R104. -/
def opcodeRowsMiddle : List OpcodeRow :=
  [⟨0x8000, 0xF00F⟩, ⟨0x8001, 0xF00F⟩, ⟨0x8002, 0xF00F⟩, ⟨0x8003, 0xF00F⟩, ⟨0x8004, 0xF00F⟩, ⟨0x8005, 0xF00F⟩,
   ⟨0x8006, 0xF00F⟩, ⟨0x8007, 0xF00F⟩, ⟨0x800E, 0xF00F⟩, ⟨0x9000, 0xF00F⟩, ⟨0xA000, 0xF000⟩, ⟨0xB000, 0xF000⟩,
   ⟨0xC000, 0xF000⟩, ⟨0xD000, 0xF000⟩]

/-- The rows for Ex9E to Fx65, in the order of R104. -/
def opcodeRowsHigh : List OpcodeRow :=
  [⟨0xE09E, 0xF0FF⟩, ⟨0xE0A1, 0xF0FF⟩, ⟨0xF007, 0xF0FF⟩, ⟨0xF00A, 0xF0FF⟩, ⟨0xF015, 0xF0FF⟩, ⟨0xF018, 0xF0FF⟩,
   ⟨0xF01E, 0xF0FF⟩, ⟨0xF029, 0xF0FF⟩, ⟨0xF033, 0xF0FF⟩, ⟨0xF055, 0xF0FF⟩, ⟨0xF065, 0xF0FF⟩]

/-- The opcode map of R104, 34 rows. -/
def opcodeRows : List OpcodeRow := opcodeRowsLow ++ (opcodeRowsMiddle ++ opcodeRowsHigh)

/-- The word matches some row of R104; any other word is an unmatched no-op (R113). -/
def wordMatched (w : Word) : Bool := opcodeRows.any (fun r => r.admits w)

/-- A Load request of the host: the bytes and the address of the first one (20_memory.md R90). -/
structure LoadRequest where
  bytes : List Byte
  offset : Nat
  deriving DecidableEq, Repr

/-- The whole request lies inside the 4096-byte memory (R90: it fails if `offset + len(bytes) > 4096`). -/
def LoadRequest.fits (q : LoadRequest) : Bool := decide (q.offset + q.bytes.length ≤ 4096)

end Sys2Proof
end

