-- ==== Sys2Proof/Decode.lean ====
section
/-! DEFINITION. The decoder, total on every 16-bit word (40_cycle.md R137: "Decode cannot fault"), and the encoder,
both written from the opcode map and formats of 30_encoding.md R101, R102, R104. -/

namespace Sys2Proof

/-- The six groups of words that match no instruction, by name (30_encoding.md R113).  Each is executed as a no-op. -/
inductive Unmatched where
  /-- 0nnn other than 00E0 and 00EE (4094 words) -/
  | group0
  /-- 5xyN, N ≠ 0 (3840 words) -/
  | group5
  /-- 8xyN, N in {8, 9, A, B, C, D, F} (1792 words) -/
  | group8
  /-- 9xyN, N ≠ 0 (3840 words) -/
  | group9
  /-- ExNN, NN not in {9E, A1} (4064 words) -/
  | groupE
  /-- FxNN, NN not in {07, 0A, 15, 18, 1E, 29, 33, 55, 65} (3952 words) -/
  | groupF
  deriving DecidableEq, Repr

/-- `op[15:12]`, the major opcode (R101). -/
def fieldO (w : Word) : BitVec 4 := w.extractLsb' 12 4
/-- `x` = `op[11:8]` (R101). -/
def fieldX (w : Word) : Reg := w.extractLsb' 8 4
/-- `y` = `op[7:4]` (R101). -/
def fieldY (w : Word) : Reg := w.extractLsb' 4 4
/-- `n` = `op[3:0]` (R101). -/
def fieldN (w : Word) : BitVec 4 := w.extractLsb' 0 4
/-- `kk` = `op[7:0]` (R101). -/
def fieldKK (w : Word) : Byte := w.extractLsb' 0 8
/-- `nnn` = `op[11:0]` (R101). -/
def fieldNNN (w : Word) : Addr := w.extractLsb' 0 12

/-- Group 0: the two fixed words of format Z (R102, R104). -/
def decode0 (nnn : Addr) : Except Unmatched Instr :=
  match nnn with
  | 0x0E0#12 => .ok .cls
  | 0x0EE#12 => .ok .ret
  | _ => .error .group0

/-- Group 8: the register-register ALU, by its sub-opcode (R104, R105; the digits 1 to 7 are decision D3). -/
def decode8 (x y : Reg) (sub : BitVec 4) : Except Unmatched Instr :=
  match sub with
  | 0x0#4 => .ok (.ldReg x y)
  | 0x1#4 => .ok (.orReg x y)
  | 0x2#4 => .ok (.andReg x y)
  | 0x3#4 => .ok (.xorReg x y)
  | 0x4#4 => .ok (.addReg x y)
  | 0x5#4 => .ok (.subReg x y)
  | 0x6#4 => .ok (.shr x y)
  | 0x7#4 => .ok (.subnReg x y)
  | 0xE#4 => .ok (.shl x y)
  | _ => .error .group8

/-- Group E: the key skips, by their sub-opcode byte (R104). -/
def decodeE (x : Reg) (sub : Byte) : Except Unmatched Instr :=
  match sub with
  | 0x9E#8 => .ok (.skp x)
  | 0xA1#8 => .ok (.sknp x)
  | _ => .error .groupE

/-- Group F: timers, keypad wait, index and memory, by their sub-opcode byte (R104). -/
def decodeF (x : Reg) (sub : Byte) : Except Unmatched Instr :=
  match sub with
  | 0x07#8 => .ok (.ldVxDt x)
  | 0x0A#8 => .ok (.ldVxK x)
  | 0x15#8 => .ok (.ldDtVx x)
  | 0x18#8 => .ok (.ldStVx x)
  | 0x1E#8 => .ok (.addI x)
  | 0x29#8 => .ok (.ldF x)
  | 0x33#8 => .ok (.ldB x)
  | 0x55#8 => .ok (.storeRegs x)
  | 0x65#8 => .ok (.loadRegs x)
  | _ => .error .groupF

/-- Decode one word: the instruction of the row that matches, or the name of its unmatched group (R104, R113, R137).
5xyN and 9xyN are read literally: N must be 0 (R113, decision D23). -/
def decode (w : Word) : Except Unmatched Instr :=
  match fieldO w with
  | 0x0#4 => decode0 (fieldNNN w)
  | 0x1#4 => .ok (.jp (fieldNNN w))
  | 0x2#4 => .ok (.call (fieldNNN w))
  | 0x3#4 => .ok (.seImm (fieldX w) (fieldKK w))
  | 0x4#4 => .ok (.sneImm (fieldX w) (fieldKK w))
  | 0x5#4 => if fieldN w = 0 then .ok (.seReg (fieldX w) (fieldY w)) else .error .group5
  | 0x6#4 => .ok (.ldImm (fieldX w) (fieldKK w))
  | 0x7#4 => .ok (.addImm (fieldX w) (fieldKK w))
  | 0x8#4 => decode8 (fieldX w) (fieldY w) (fieldN w)
  | 0x9#4 => if fieldN w = 0 then .ok (.sneReg (fieldX w) (fieldY w)) else .error .group9
  | 0xA#4 => .ok (.ldI (fieldNNN w))
  | 0xB#4 => .ok (.jpV0 (fieldNNN w))
  | 0xC#4 => .ok (.rnd (fieldX w) (fieldKK w))
  | 0xD#4 => .ok (.drw (fieldX w) (fieldY w) (fieldN w))
  | 0xE#4 => decodeE (fieldX w) (fieldKK w)
  | _ => decodeF (fieldX w) (fieldKK w)

/-- The word of the two bytes of an instruction, the byte at the lower address first: big-endian (20_memory.md R71). -/
def wordOfBytes (high low : Byte) : Word := high ++ low

/-- The byte of an instruction word at the lower address, `op[15:8]` (20_memory.md R71). -/
def highByte (w : Word) : Byte := w.extractLsb' 8 8

/-- The byte of an instruction word at the higher address, `op[7:0]` (20_memory.md R71). -/
def lowByte (w : Word) : Byte := w.extractLsb' 0 8

/-- Decode the two bytes of an instruction, lower address first. -/
def decodeBytes (high low : Byte) : Except Unmatched Instr := decode (wordOfBytes high low)

/-- Format A: `oooo nnnn nnnn nnnn` (R102). -/
def formatA (o : BitVec 4) (nnn : Addr) : Word := o ++ nnn
/-- Format XK: `oooo xxxx kkkk kkkk` (R102). -/
def formatXK (o : BitVec 4) (x : Reg) (kk : Byte) : Word := o ++ x ++ kk
/-- Formats XY and XYN: `oooo xxxx yyyy ssss` (R102). -/
def formatXY (o : BitVec 4) (x y : Reg) (s : BitVec 4) : Word := o ++ x ++ y ++ s

/-- The word of an instruction (R102, R104).  Format X is format XK with the sub-opcode byte in the place of `kk`,
and format Z is format A with the fixed digits in the place of `nnn`. -/
def encode : Instr → Word
  | .cls => formatA 0x0 0x0E0
  | .ret => formatA 0x0 0x0EE
  | .jp nnn => formatA 0x1 nnn
  | .call nnn => formatA 0x2 nnn
  | .seImm x kk => formatXK 0x3 x kk
  | .sneImm x kk => formatXK 0x4 x kk
  | .seReg x y => formatXY 0x5 x y 0x0
  | .ldImm x kk => formatXK 0x6 x kk
  | .addImm x kk => formatXK 0x7 x kk
  | .ldReg x y => formatXY 0x8 x y 0x0
  | .orReg x y => formatXY 0x8 x y 0x1
  | .andReg x y => formatXY 0x8 x y 0x2
  | .xorReg x y => formatXY 0x8 x y 0x3
  | .addReg x y => formatXY 0x8 x y 0x4
  | .subReg x y => formatXY 0x8 x y 0x5
  | .shr x y => formatXY 0x8 x y 0x6
  | .subnReg x y => formatXY 0x8 x y 0x7
  | .shl x y => formatXY 0x8 x y 0xE
  | .sneReg x y => formatXY 0x9 x y 0x0
  | .ldI nnn => formatA 0xA nnn
  | .jpV0 nnn => formatA 0xB nnn
  | .rnd x kk => formatXK 0xC x kk
  | .drw x y n => formatXY 0xD x y n
  | .skp x => formatXK 0xE x 0x9E
  | .sknp x => formatXK 0xE x 0xA1
  | .ldVxDt x => formatXK 0xF x 0x07
  | .ldVxK x => formatXK 0xF x 0x0A
  | .ldDtVx x => formatXK 0xF x 0x15
  | .ldStVx x => formatXK 0xF x 0x18
  | .addI x => formatXK 0xF x 0x1E
  | .ldF x => formatXK 0xF x 0x29
  | .ldB x => formatXK 0xF x 0x33
  | .storeRegs x => formatXK 0xF x 0x55
  | .loadRegs x => formatXK 0xF x 0x65

/-- The word of a table row's `nbits` bits `w`, as spec/opcode_table.json numbers them (every row has 16). -/
def tableWord (nbits w : Nat) : Word := BitVec.ofNat 16 (w % 2 ^ nbits)

/-- What the decoder reads from an instruction whose bits are `w`: the word is laid out as the hardware stores it
(high byte at the lower address, 20_memory.md R71) and its two bytes are decoded. -/
def decodeTableWord (nbits w : Nat) : Option Instr :=
  (decodeBytes (highByte (tableWord nbits w)) (lowByte (tableWord nbits w))).toOption

end Sys2Proof
end

