-- ==== Sys2Proof/Config.lean ====
section
/-! DEFINITION. What an implementation fixes (the model parameters FONT and FX1E_LIMIT) and the free values
(the inputs the environment supplies to a step). -/

namespace Sys2Proof

/-- The model parameters of 00_scope.md R11 that the spec leaves OPEN.  They are plain data held by State and
changed by no step, so a statement about every state holds for every setting of them. DESIGN CHOICE (log entry 4). -/
structure Params where
  /-- FONT, the 80 glyph bytes at 0x000 to 0x04F (10_state.md R47, D10). -/
  font : Vector Byte 80
  /-- FX1E_LIMIT, "a 17-bit natural number" (43_index_memory.md R233, D8). -/
  fx1eLimit : BitVec 17
  deriving DecidableEq, Repr

/-- FREE VALUE: the keypad input of step number `k`, when State lists no input for it.  The environment chooses it
(40_cycle.md R141), so nothing can be proved of it. DESIGN CHOICE, safe (log entry 2). -/
opaque Config.keyInput : Nat → BitVec 16

/-- FREE VALUE: the random byte of step number `k`, when State lists no input for it: "an unconstrained input of
each step", no relation between steps (42_alu.md R203, D16). DESIGN CHOICE, safe (log entry 2). -/
opaque Config.rndInput : Nat → Byte

end Sys2Proof
end

