-- ==== Sys2Proof/Machine/Font.lean ====
section
/-! DEFINITION. The default of the model parameters: the usual CHIP-8 font, which the spec supplies from general
knowledge (10_state.md R47, D10, G1), and FX1E_LIMIT = 0x0FFF (43_index_memory.md R233, D8). -/

namespace Sys2Proof.Machine

/-- Glyphs 0 to 7 of the default FONT, at 0x000 to 0x027 (R47). PRESUMED (log entry 4). -/
def fontGlyphsLow : List Byte :=
  [0xF0, 0x90, 0x90, 0x90, 0xF0] ++ [0x20, 0x60, 0x20, 0x20, 0x70] ++ [0xF0, 0x10, 0xF0, 0x80, 0xF0] ++
  [0xF0, 0x10, 0xF0, 0x10, 0xF0] ++ [0x90, 0x90, 0xF0, 0x10, 0x10] ++ [0xF0, 0x80, 0xF0, 0x10, 0xF0] ++
  [0xF0, 0x80, 0xF0, 0x90, 0xF0] ++ [0xF0, 0x10, 0x20, 0x40, 0x40]

/-- Glyphs 8 to F of the default FONT, at 0x028 to 0x04F (R47). PRESUMED (log entry 4). -/
def fontGlyphsHigh : List Byte :=
  [0xF0, 0x90, 0xF0, 0x90, 0xF0] ++ [0xF0, 0x90, 0xF0, 0x10, 0xF0] ++ [0xF0, 0x90, 0xF0, 0x90, 0x90] ++
  [0xE0, 0x90, 0xE0, 0x90, 0xE0] ++ [0xF0, 0x80, 0x80, 0x80, 0xF0] ++ [0xE0, 0x90, 0x90, 0x90, 0xE0] ++
  [0xF0, 0x80, 0xF0, 0x80, 0xF0] ++ [0xF0, 0x80, 0xF0, 0x80, 0x80]

/-- The default FONT, 80 bytes (R47). -/
def fontDefault : Vector Byte 80 := ⟨(fontGlyphsLow ++ fontGlyphsHigh).toArray, rfl⟩

/-- The spec's defaults of the model parameters (00_scope.md R11). -/
def paramsDefault : Params := { font := fontDefault, fx1eLimit := 0x0FFF }

end Sys2Proof.Machine
end

