-- ==== Sys2Proof/Machine/State.lean ====
section
/-! DEFINITION. The state of the core as plain data: the tuple of 10_state.md R30, field for field, and four fields of
the model's own that carry what R59 calls inputs and parameters of the step. -/

namespace Sys2Proof.Machine

/-- Memory as a list of (address, byte) cells; an address the list does not hold reads as its reset contents
(`unlisted`, Machine/Memory.lean).  The canonical form is `Memory.wf`. -/
abbrev Memory := List Host.Cell

/-- The framebuffer: 32 rows, row 0 at the top, column x of a row on its bit x (10_state.md R49). -/
abbrev Framebuffer := Vector (BitVec 64) 32

/-- What the environment supplies to one step: the 16-bit keypad vector and the random byte (40_cycle.md R130). -/
structure StepInput where
  /-- `keyin`: bit k = key k pressed (10_state.md R60). -/
  keys : BitVec 16
  /-- `rnd`: the random byte, used by Cxkk only (R60). -/
  rnd : Byte
  deriving DecidableEq, Repr

/-- The fault causes of 60_exceptions.md R300.  An instruction's meaning and a step TAKE a fault: they answer a next
state that is halted and holds the fault record (R302, `State.enterFault`), never `Outcome.fault`.  `Outcome.fault`
is answered only by `checkedStep` of Sys2Proof/Safety.lean, the view of R304 in which "the halted state is a fault
outcome". -/
inductive Fault where
  /-- Code 1.  Raised by 2nnn when SP = 16 (41_control_flow.md R162).  Exact where the spec states it; safe. -/
  | stackOverflow
  /-- Code 2.  Raised by 00EE when SP = 0 (41_control_flow.md R160).  Exact where the spec states it; safe. -/
  | stackUnderflow
  /-- Code 3.  Raised by a fetch at pc ≥ 0xFFF (40_cycle.md R136) and by Dxyn, Fx33, Fx55, Fx65 that reach past 0xFFF
  (20_memory.md R72).  Safe: the spec's decision D7 errs "toward unprovable". -/
  | memOutOfBounds
  /-- Code 4.  Raised by Ex9E and ExA1 when V[x] > 0x0F (45_timers_keypad.md R280).  Safe: the spec's decision D15
  errs "toward unprovable". -/
  | keyOutOfRange
  deriving DecidableEq, Repr

/-- Why an operation is turned away. -/
inductive Refusal where
  /-- An arm of `exec` whose instruction has no meaning yet.  Raised by no arm of this model; safe. -/
  | notModelled (mnemonic : String)
  /-- `Err(OutOfBounds)` of the host's Load (20_memory.md R90): raised by `State.load`, never by an instruction or a
  step; memory is unchanged.  Exact; safe. -/
  | loadOutOfBounds
  /-- A Load after the first step, which is outside the contract (20_memory.md R91) and which a model does not offer
  (93_implementation_defined.md U12): raised by `Session.load` and `Session.loadPort`, never by an instruction or a step;
  memory is unchanged.  Safe. -/
  | loadAfterFirstStep
  deriving DecidableEq, Repr

/-- The state of the core.  Names are those of 10_state.md R30. -/
structure State where
  /-- `V[0..15]`, the general registers; V[15] is VF (R31, R32). -/
  v : Vector Byte 16
  /-- `I`, the index register (R40). -/
  i : Word
  /-- `pc`, the address of the next instruction to fetch (R35). -/
  pc : Word
  /-- `stack[0..15]`, the return addresses (R44). -/
  stack : Vector Word 16
  /-- `SP`, the number of valid stack entries, in [0, 16] (R44). -/
  sp : Fin 17
  /-- `DT`, the delay timer (R42). -/
  dt : Byte
  /-- `ST`, the sound timer (R42). -/
  st : Byte
  /-- `fb`, the framebuffer: pixel (x, y) on bit x of row y (R49). -/
  fb : Framebuffer
  /-- `changed`, the dirty flag (R51). -/
  changed : Bool
  /-- `keypad[0..15]`, this step's snapshot: bit k = key k pressed (R53). -/
  keypad : BitVec 16
  /-- `waiting`, the keypad-wait latch (R54). -/
  waiting : Bool
  /-- `kreg`, the register the wait will write (R54). -/
  kreg : Reg
  /-- `mem[0x000..0xFFF]` (R46). -/
  mem : Memory
  /-- `halted`: the fault state is held (R56). -/
  halted : Bool
  /-- `fault_code` (R56, 60_exceptions.md R300). -/
  faultCode : BitVec 3
  /-- `fault_pc` (R56). -/
  faultPc : Word
  /-- `fault_opcode` (R56). -/
  faultOpcode : Word
  /-- `fault_info` (R56). -/
  faultInfo : Word
  /-- MODEL'S OWN: the random byte this step sampled (R59 calls it an input). DESIGN CHOICE (log entry 3). -/
  rnd : Byte
  /-- MODEL'S OWN: the inputs of the next steps, first one first, as far as they are given; after them the inputs are
  free values (R141). DESIGN CHOICE (log entry 2). -/
  inputs : List StepInput
  /-- MODEL'S OWN: how many steps have sampled their inputs; it indexes the free inputs. DESIGN CHOICE (log entry 2). -/
  inputIndex : Nat
  /-- MODEL'S OWN: the model parameters FONT and FX1E_LIMIT (R59). DESIGN CHOICE (log entry 4). -/
  params : Params
  deriving DecidableEq, Repr

/-- The machine right after reset, for any setting of the model parameters: every field at the value of 10_state.md
R30 (70_reset_and_hazards.md R340), memory listing nothing, so that it holds the font and zeros (R48). -/
def State.resetWith (p : Params) : State where
  v := Vector.replicate 16 0
  i := 0x0200
  pc := 0x0200
  stack := Vector.replicate 16 0
  sp := 0
  dt := 0
  st := 0
  fb := Vector.replicate 32 0
  changed := false
  keypad := 0
  waiting := false
  kreg := 0
  mem := []
  halted := false
  faultCode := 0
  faultPc := 0
  faultOpcode := 0
  faultInfo := 0
  rnd := 0
  inputs := []
  inputIndex := 0
  params := p

/-- The machine right after reset, with the spec's default parameters. -/
def State.reset : State := State.resetWith paramsDefault

end Sys2Proof.Machine
end

