-- ==== Sys2Proof/Machine/Memory.lean ====
section
/-! DEFINITION. The memory controller: the 4096-byte store with the font resident (20_memory.md R70, 10_state.md
R46 to R48), as a canonical list of cells.  Every access moves one byte (20_memory.md R73). -/

namespace Sys2Proof.Machine

/-- The number of bytes of memory: addresses 0x000 to 0xFFF (20_memory.md R70). -/
def memSize : Nat := 4096

/-- What an address nothing has written reads as: FONT at 0x000 to 0x04F, else 0x00 (10_state.md R48). -/
def unlisted (p : Params) (a : Nat) : Byte := if h : a < 80 then p.font[a] else 0

/-- `MemRead(a, 1)` (00_scope.md R14). -/
def Memory.read (p : Params) : Memory → Nat → Byte
  | [], a => unlisted p a
  | (k, b) :: m, a => if a = k then b else Memory.read p m a

/-- Drop every cell of address `a`. -/
def Memory.erase : Memory → Nat → Memory
  | [], _ => []
  | (k, b) :: m, a => if a = k then Memory.erase m a else (k, b) :: Memory.erase m a

/-- Put a cell before the first cell of a higher address. -/
def Memory.insert : Memory → Nat → Byte → Memory
  | [], a, b => [(a, b)]
  | (k, c) :: m, a, b => if a < k then (a, b) :: (k, c) :: m else (k, c) :: Memory.insert m a b

/-- `MemWrite(a, 1, b)` (00_scope.md R14); writing what an unlisted address reads as leaves no cell. -/
def Memory.write (p : Params) (m : Memory) (a : Nat) (b : Byte) : Memory :=
  if b = unlisted p a then Memory.erase m a else Memory.insert (Memory.erase m a) a b

/-- The canonical form: addresses strictly rising, all below 0x1000, and no cell equal to what its address reads as
when unlisted. -/
abbrev Memory.wf (p : Params) (m : Memory) : Prop :=
  m.Pairwise (fun c d => c.1 < d.1) ∧ ∀ c ∈ m, c.1 < memSize ∧ c.2 ≠ unlisted p c.1

end Sys2Proof.Machine
end

