-- ==== Sys2Proof/Machine/Operands.lean ====
section
/-! DEFINITION. The operand forms: how each immediate and each effective address is formed (30_encoding.md R103,
43_index_memory.md introduction, 20_memory.md R72). -/

namespace Sys2Proof.Machine

/-- `zext_16(nnn)`: the address immediate as it is written to `pc` or `I` (R103). -/
def zextAddr (nnn : Addr) : Word := nnn.setWidth 16

/-- `zext_16(b)`: a register or byte as a 16-bit value (00_scope.md R13). -/
def zextByte (b : Byte) : Word := b.setWidth 16

/-- The target of Bnnn: `nnn + V[0]`, at most 0x10FE, so exact in 16 bits (41_control_flow.md R167). -/
def indexedTarget (nnn : Addr) (v0 : Byte) : Word := zextAddr nnn + zextByte v0

/-- The effective address `I + k`, an exact integer (20_memory.md R72; 43_index_memory.md introduction). -/
def effAddr (i : Word) (k : Nat) : Nat := i.toNat + k

/-- Some byte of `base .. base + count - 1` lies above 0xFFF (20_memory.md R72); false when there is none. -/
def outOfRange (base count : Nat) : Bool := decide (0 < count ∧ 0xFFF < base + (count - 1))

/-- The address of glyph `d`: 5·d on the full byte, not masked (43_index_memory.md R234, D9). -/
def glyphAddr (d : Byte) : Word := 5 * zextByte d

/-- The three decimal digits of a byte, hundreds first (43_index_memory.md R235). -/
def bcdDigits (b : Byte) : List Byte :=
  [BitVec.ofNat 8 (b.toNat / 100), BitVec.ofNat 8 (b.toNat / 10 % 10), BitVec.ofNat 8 (b.toNat % 10)]

/-- A key index is in range: `V[x]` ≤ 0x0F (45_timers_keypad.md R280). -/
def keyInRange (b : Byte) : Bool := decide (b.toNat ≤ 0x0F)

end Sys2Proof.Machine
end

