-- ==== Sys2Proof/Machine/Flags.lean ====
section
/-! DEFINITION. The flag computations.  The only flag is VF; what each instruction writes to it is the table of
10_state.md R62 (the collision flag of Dxyn is computed by the blitter, Machine/Display.lean). -/

namespace Sys2Proof.Machine

/-- A Boolean used as a number: 1 for true, 0 for false (00_scope.md R13). -/
def flagByte (f : Bool) : Byte := if f then 1 else 0

/-- The carry of 8xy4: `V[x] + V[y] > 255` on the exact sum (42_alu.md R198). -/
def carryFlag (a b : Byte) : Bool := decide (255 < a.toNat + b.toNat)

/-- The not-borrow flag of `a - b`: `a > b`, strict, so equal operands give 0 (42_alu.md R191, R199, R201). -/
def notBorrowFlag (a b : Byte) : Bool := decide (b.toNat < a.toNat)

/-- The bit a right shift puts out: bit 0 (42_alu.md R200). -/
def shiftRightFlag (a : Byte) : Bool := a.getLsbD 0

/-- The bit a left shift puts out: bit 7 (42_alu.md R202). -/
def shiftLeftFlag (a : Byte) : Bool := a.getLsbD 7

/-- The flag of Fx1E: the exact sum exceeds FX1E_LIMIT (43_index_memory.md R232, R233). -/
def indexOverflowFlag (limit : BitVec 17) (i : Word) (b : Byte) : Bool := decide (limit.toNat < i.toNat + b.toNat)

end Sys2Proof.Machine
end

