-- ==== Sys2Proof/Machine/Ops.lean ====
section
/-! DEFINITION. The named operations over registers, memory, the stack and the pc that the meanings share, and taking a
fault (60_exceptions.md R302).  There is no return from a fault to define: R305 says none exists. -/

namespace Sys2Proof.Machine

/-- `V[r]` (00_scope.md R14). -/
def State.reg (s : State) (r : Reg) : Byte := s.v[r.toNat]'r.isLt

/-- `V[r] <- b` (00_scope.md R14).  No register is hard-wired (10_state.md R31). -/
def State.setReg (s : State) (r : Reg) (b : Byte) : State := { s with v := s.v.set r.toNat b r.isLt }

/-- `VF <- f` (10_state.md R32, R62). -/
def State.setFlag (s : State) (f : Bool) : State := s.setReg VF (flagByte f)

/-- Write a result and then the flag: VF last, so the flag stays when the destination is VF (42_alu.md R190, D4). -/
def State.setResultFlag (s : State) (r : Reg) (b : Byte) (f : Bool) : State := (s.setReg r b).setFlag f

/-- `MemRead(a, 1)` (00_scope.md R14). -/
def State.readByte (s : State) (a : Nat) : Byte := Memory.read s.params s.mem a

/-- `MemWrite(a, 1, b)` (00_scope.md R14). -/
def State.writeByte (s : State) (a : Nat) (b : Byte) : State := { s with mem := Memory.write s.params s.mem a b }

/-- Write bytes at consecutive rising addresses (20_memory.md R73). -/
def State.writeBytes (s : State) (a : Nat) : List Byte → State
  | [] => s
  | b :: bs => State.writeBytes (s.writeByte a b) (a + 1) bs

/-- The registers V[0], …, V[x] as a list (43_index_memory.md R236). -/
def State.regsUpTo (s : State) (x : Reg) : List Byte :=
  (List.range (x.toNat + 1)).map (fun k => s.reg (BitVec.ofNat 4 k))

/-- `V[k] <- MemRead(a + k, 1)` for k below `count` (43_index_memory.md R237). -/
def State.loadRegsFrom (s : State) (a : Nat) : Nat → State
  | 0 => s
  | k + 1 => (State.loadRegsFrom s a k).setReg (BitVec.ofNat 4 k) (s.readByte (a + k))

/-- Transition NEXT: pc <- pc + 2 (40_cycle.md R139). -/
def State.advance (s : State) : State := { s with pc := s.pc + 2 }

/-- Transition SKIP when the condition holds, else NEXT (40_cycle.md R139). -/
def State.skipWhen (s : State) (c : Bool) : State := { s with pc := s.pc + (if c then 4 else 2) }

/-- Transition JUMP(a) (40_cycle.md R139). -/
def State.jump (s : State) (a : Word) : State := { s with pc := a }

/-- Push a return address: write stack[SP], then increment SP (41_control_flow.md R162).  A full stack is left as it
is; 2nnn faults before it would push onto one. -/
def State.push (s : State) (a : Word) : State :=
  if h : s.sp.val < 16 then { s with stack := s.stack.set s.sp.val a h, sp := ⟨s.sp.val + 1, by omega⟩ } else s

/-- The most recently pushed entry, stack[SP - 1] (41_control_flow.md R160); only read when SP > 0. -/
def State.topOfStack (s : State) : Word := s.stack[s.sp.val - 1]'(by have := s.sp.isLt; omega)

/-- Decrement SP; the entry keeps its value (41_control_flow.md R160, D13). -/
def State.pop (s : State) : State := { s with sp := ⟨s.sp.val - 1, by have := s.sp.isLt; omega⟩ }

/-- `fault_code` of a cause (60_exceptions.md R300). -/
def Fault.code : Fault → BitVec 3
  | .stackOverflow => 1
  | .stackUnderflow => 2
  | .memOutOfBounds => 3
  | .keyOutOfRange => 4

/-- The cause of a `fault_code`; codes 0 and 5 to 7 name none (60_exceptions.md R300). -/
def Fault.ofCode (c : BitVec 3) : Option Fault :=
  match c with
  | 1#3 => some .stackOverflow
  | 2#3 => some .stackUnderflow
  | 3#3 => some .memOutOfBounds
  | 4#3 => some .keyOutOfRange
  | _ => none

/-- `raise Fault(c, info)`: fault entry (60_exceptions.md R302).  `op` is the instruction word, 0 for a fetch fault.
The pc is not advanced and nothing but the record is written. -/
def State.enterFault (s : State) (c : Fault) (info op : Word) : State :=
  { s with halted := true, faultCode := c.code, faultPc := s.pc, faultOpcode := op, faultInfo := info }

/-- An instruction raises a fault: its word, which the record holds, is the encoding of the instruction (R302). DEDUCED
(log entry 6). -/
def State.raise (s : State) (c : Fault) (info : Word) (i : Instr) : State := s.enterFault c info (encode i)

end Sys2Proof.Machine
end

