-- ==== Sys2Proof/Machine/Cycle.lean ====
section
/-! DEFINITION. The phases of the step (40_cycle.md R130 to R140): sample, keypad wait, countdown, fetch, decode and
execute, output record. -/

namespace Sys2Proof.Machine

/-- The inputs of the next step: the first ones State lists, else free values (R141). DESIGN CHOICE (log entry 2). -/
def State.nextInput (s : State) : StepInput :=
  match s.inputs with
  | [] => { keys := Config.keyInput s.inputIndex, rnd := Config.rndInput s.inputIndex }
  | inp :: _ => inp

/-- Phase 1: replace the keypad snapshot, latch the random byte, clear the dirty flag (R131). -/
def State.sample (s : State) : State :=
  { s with
    keypad := s.nextInput.keys
    rnd := s.nextInput.rnd
    changed := false
    inputs := s.inputs.tail
    inputIndex := s.inputIndex + 1 }

/-- The lowest pressed key, scanned from 0 to 15 (R132, C4). -/
def firstKey (keys : BitVec 16) : Option Nat := (List.range 16).find? (fun k => keys.getLsbD k)

/-- Phase 2, the wait service: a pressed key is written to V[kreg] and clears the latch; without one nothing is
written (R132).  Level-triggered (C2). -/
def State.serviceWait (s : State) : State :=
  match firstKey s.keypad with
  | some k => { s.setReg s.kreg (BitVec.ofNat 8 k) with waiting := false }
  | none => s

/-- One count of a timer: a timer above 0 loses one, a timer at 0 stays (R134). -/
def tick (t : Byte) : Byte := if t = 0 then 0 else t - 1

/-- Phase 3a: both timers count (R134). -/
def State.countdown (s : State) : State := { s with dt := tick s.dt, st := tick s.st }

/-- Phase 3b: the big-endian word at pc, or none when `pc + 1 > 0xFFF` (R135, R136). -/
def State.fetch (s : State) : Option Word :=
  if 0xFFF < s.pc.toNat + 1 then none
  else some (wordOfBytes (s.readByte s.pc.toNat) (s.readByte (s.pc.toNat + 1)))

/-- Phases 3c and 3d for one word: the matched instruction, or the no-op of an unmatched word (R137 to R139,
30_encoding.md R113). -/
def State.executeWord (ex : Instr → State → Host.Outcome State Fault Refusal) (s : State) (w : Word) :
    Host.Outcome State Fault Refusal :=
  match decode w with
  | .ok i => ex i s
  | .error _ => .next s.advance

/-- Phases 3b to 3d: fetch and execute, or take the fetch fault, whose `fault_opcode` is 0 (R136). -/
def State.fetchExecute (ex : Instr → State → Host.Outcome State Fault Refusal) (s : State) :
    Host.Outcome State Fault Refusal :=
  match s.fetch with
  | none => .next (s.enterFault .memOutOfBounds s.pc 0)
  | some w => s.executeWord ex w

/-- The phases in their order (R130): a halted core changes nothing (60_exceptions.md R304), a waiting core services
the wait and ends its step (R133), any other core counts down, fetches and executes. -/
def State.cycle (ex : Instr → State → Host.Outcome State Fault Refusal) (s : State) :
    Host.Outcome State Fault Refusal :=
  if s.halted then .next s
  else if s.sample.waiting then .next s.sample.serviceWait
  else s.sample.countdown.fetchExecute ex

/-- The output record (R140, 10_state.md R61). -/
structure Output where
  fb : Framebuffer
  changed : Bool
  beep : Bool
  deriving DecidableEq, Repr

/-- What a step returns: its output record, or nothing but HALTED (R130, 60_exceptions.md R302, R304). -/
inductive StepResult where
  /-- HALTED: the step faulted or the core was halted; no output record. -/
  | halted
  /-- The output record. -/
  | output (o : Output)
  deriving DecidableEq, Repr

/-- What the step that ended in this state returned; it depends on nothing else (R140). -/
def State.result (s : State) : StepResult :=
  if s.halted then .halted else .output { fb := s.fb, changed := s.changed, beep := decide (0 < s.st.toNat) }

/-- The state a fetch needs: not halted, not waiting, pc not past 0xFFE. -/
def State.readyToFetch (s : State) : State :=
  let s' : State :=
    if s.halted then { s with halted := false, faultCode := 0, faultPc := 0, faultOpcode := 0, faultInfo := 0 } else s
  { s' with waiting := false, pc := if 0xFFF < s.pc.toNat + 1 then 0x0200 else s.pc }

/-- Store a word where the next step fetches, high byte first (20_memory.md R71). -/
def State.placeWord (s : State) (w : Word) : State :=
  s.readyToFetch.writeBytes s.readyToFetch.pc.toNat [highByte w, lowByte w]

end Sys2Proof.Machine
end

