-- ==== Sys2Proof/Machine/Control.lean ====
section
/-! DEFINITION. The meanings of 41_control_flow.md: return, jumps, call, skips. -/

namespace Sys2Proof.Machine

/-- 00EE RET (R160). -/
def execRet (s : State) : Host.Outcome State Fault Refusal :=
  .next (if s.sp = 0 then s.raise .stackUnderflow 0 .ret else s.pop.jump s.topOfStack)

/-- 1nnn JP nnn (R161). -/
def execJp (nnn : Addr) (s : State) : Host.Outcome State Fault Refusal :=
  .next (s.jump (zextAddr nnn))

/-- 2nnn CALL nnn (R162). -/
def execCall (nnn : Addr) (s : State) : Host.Outcome State Fault Refusal :=
  .next (if s.sp = 16 then s.raise .stackOverflow 16 (.call nnn) else (s.push (s.pc + 2)).jump (zextAddr nnn))

/-- 3xkk SE Vx, kk (R163). -/
def execSeImm (x : Reg) (kk : Byte) (s : State) : Host.Outcome State Fault Refusal :=
  .next (s.skipWhen (s.reg x == kk))

/-- 4xkk SNE Vx, kk (R164). -/
def execSneImm (x : Reg) (kk : Byte) (s : State) : Host.Outcome State Fault Refusal :=
  .next (s.skipWhen (s.reg x != kk))

/-- 5xy0 SE Vx, Vy (R165). -/
def execSeReg (x y : Reg) (s : State) : Host.Outcome State Fault Refusal :=
  .next (s.skipWhen (s.reg x == s.reg y))

/-- 9xy0 SNE Vx, Vy (R166). -/
def execSneReg (x y : Reg) (s : State) : Host.Outcome State Fault Refusal :=
  .next (s.skipWhen (s.reg x != s.reg y))

/-- Bnnn JP V0, nnn (R167). -/
def execJpV0 (nnn : Addr) (s : State) : Host.Outcome State Fault Refusal :=
  .next (s.jump (indexedTarget nnn (s.reg 0)))

end Sys2Proof.Machine
end

