-- ==== Sys2Proof/Machine/Display.lean ====
section
/-! DEFINITION. The framebuffer blitter and the meanings of 44_display.md. -/

namespace Sys2Proof.Machine

/-- `fb[x][y]`, column x and row y (00_scope.md R14). -/
def pixel (fb : Framebuffer) (x y : Nat) : Bool := if h : y < 32 then fb[y].getLsbD x else false

/-- `fb[x][y] <- fb[x][y] XOR 1`. -/
def togglePixel (fb : Framebuffer) (x y : Nat) : Framebuffer :=
  if h : y < 32 then fb.set y (fb[y] ^^^ BitVec.twoPow 64 x) else fb

/-- The cleared screen (44_display.md R260). -/
def blankScreen : Framebuffer := Vector.replicate 32 0

/-- A drawing under way: the framebuffer so far and the collision flag `col` so far (44_display.md R262). -/
structure Drawing where
  fb : Framebuffer
  col : Bool
  deriving DecidableEq, Repr

/-- Toggle one pixel; a pixel that was 1 is a collision (R262). -/
def Drawing.toggle (d : Drawing) (px py : Nat) : Drawing :=
  { fb := togglePixel d.fb px py, col := d.col || pixel d.fb px py }

/-- Column `c` of a sprite row: bit `7 - c`, placed at `(cx + c) mod 64` (R261). -/
def Drawing.column (b : Byte) (cx py : Nat) (d : Drawing) (c : Nat) : Drawing :=
  if b.getLsbD (7 - c) then d.toggle ((cx + c) % 64) py else d

/-- One sprite row: its eight columns, left to right (R262). -/
def Drawing.row (b : Byte) (cx py : Nat) (d : Drawing) : Drawing :=
  (List.range 8).foldl (Drawing.column b cx py) d

/-- The first `n` rows of a sprite, top to bottom, row `r` placed at `(cy + r) mod 32` (R261, R262). -/
def Drawing.sprite (bytes : Nat → Byte) (cx cy : Nat) (d : Drawing) : Nat → Drawing
  | 0 => d
  | r + 1 => Drawing.row (bytes r) cx ((cy + r) % 32) (Drawing.sprite bytes cx cy d r)

/-- The drawing of an `n`-row sprite at I, at the position V[x], V[y] (R262). -/
def State.drawing (s : State) (x y : Reg) (n : Count) : Drawing :=
  Drawing.sprite (fun r => s.readByte (effAddr s.i r)) (s.reg x).toNat (s.reg y).toNat ⟨s.fb, false⟩ n.toNat

/-- Store a finished drawing: the framebuffer, the dirty flag, and VF last (R262, 42_alu.md R190). -/
def State.present (s : State) (d : Drawing) : State := ({ s with fb := d.fb, changed := true } : State).setFlag d.col

/-- 00E0 CLS (R260). -/
def execCls (s : State) : Host.Outcome State Fault Refusal :=
  .next ({ s with fb := blankScreen, changed := true } : State).advance

/-- Dxyn DRW Vx, Vy, n (R262). -/
def execDrw (x y : Reg) (n : Count) (s : State) : Host.Outcome State Fault Refusal :=
  .next (if outOfRange s.i.toNat n.toNat then s.raise .memOutOfBounds s.i (.drw x y n)
    else (s.present (s.drawing x y n)).advance)

end Sys2Proof.Machine
end

