-- ==== Sys2Proof/Machine/Index.lean ====
section
/-! DEFINITION. The meanings of 43_index_memory.md: the index register and the memory transfers.  No transfer moves I
(R230); the range check comes before any write (20_memory.md R72); every one returns NEXT. -/

namespace Sys2Proof.Machine

/-- Annn LD I, nnn (R231). -/
def execLdI (nnn : Addr) (s : State) : Host.Outcome State Fault Refusal :=
  .next ({ s with i := zextAddr nnn } : State).advance

/-- Fx1E ADD I, Vx: I modulo 2^16, VF is the exact sum above FX1E_LIMIT, written after I (R232, R233). -/
def execAddI (x : Reg) (s : State) : Host.Outcome State Fault Refusal :=
  .next (({ s with i := s.i + zextByte (s.reg x) } : State).setFlag
    (indexOverflowFlag s.params.fx1eLimit s.i (s.reg x))).advance

/-- Fx29 LD F, Vx (R234). -/
def execLdF (x : Reg) (s : State) : Host.Outcome State Fault Refusal :=
  .next ({ s with i := glyphAddr (s.reg x) } : State).advance

/-- Fx33 LD B, Vx (R235). -/
def execLdB (x : Reg) (s : State) : Host.Outcome State Fault Refusal :=
  .next (if outOfRange s.i.toNat 3 then s.raise .memOutOfBounds s.i (.ldB x)
    else (s.writeBytes (effAddr s.i 0) (bcdDigits (s.reg x))).advance)

/-- Fx55 LD [I], Vx (R236). -/
def execStoreRegs (x : Reg) (s : State) : Host.Outcome State Fault Refusal :=
  .next (if outOfRange s.i.toNat (x.toNat + 1) then s.raise .memOutOfBounds s.i (.storeRegs x)
    else (s.writeBytes (effAddr s.i 0) (s.regsUpTo x)).advance)

/-- Fx65 LD Vx, [I] (R237). -/
def execLoadRegs (x : Reg) (s : State) : Host.Outcome State Fault Refusal :=
  .next (if outOfRange s.i.toNat (x.toNat + 1) then s.raise .memOutOfBounds s.i (.loadRegs x)
    else (s.loadRegsFrom (effAddr s.i 0) (x.toNat + 1)).advance)

end Sys2Proof.Machine
end

