-- ==== Sys2Proof/Machine/Keypad.lean ====
section
/-! DEFINITION. The meanings of 45_timers_keypad.md: key skips, timers, entering the keypad wait. -/

namespace Sys2Proof.Machine

/-- `keypad[k]` (00_scope.md R14). -/
def State.keyDown (s : State) (k : Nat) : Bool := s.keypad.getLsbD k

/-- Ex9E SKP Vx (R281, key range R280). -/
def execSkp (x : Reg) (s : State) : Host.Outcome State Fault Refusal :=
  .next (if keyInRange (s.reg x) then s.skipWhen (s.keyDown (s.reg x).toNat)
    else s.raise .keyOutOfRange (zextByte (s.reg x)) (.skp x))

/-- ExA1 SKNP Vx (R282, key range R280). -/
def execSknp (x : Reg) (s : State) : Host.Outcome State Fault Refusal :=
  .next (if keyInRange (s.reg x) then s.skipWhen (!s.keyDown (s.reg x).toNat)
    else s.raise .keyOutOfRange (zextByte (s.reg x)) (.sknp x))

/-- Fx07 LD Vx, DT (R283). -/
def execLdVxDt (x : Reg) (s : State) : Host.Outcome State Fault Refusal :=
  .next (s.setReg x s.dt).advance

/-- Fx0A LD Vx, K: only sets the latch (R284). -/
def execLdVxK (x : Reg) (s : State) : Host.Outcome State Fault Refusal :=
  .next ({ s with waiting := true, kreg := x } : State).advance

/-- Fx15 LD DT, Vx (R285). -/
def execLdDtVx (x : Reg) (s : State) : Host.Outcome State Fault Refusal :=
  .next ({ s with dt := s.reg x } : State).advance

/-- Fx18 LD ST, Vx (R286). -/
def execLdStVx (x : Reg) (s : State) : Host.Outcome State Fault Refusal :=
  .next ({ s with st := s.reg x } : State).advance

end Sys2Proof.Machine
end

