-- ==== Sys2Proof/Machine/Step.lean ====
section
/-! DEFINITION. The one operation of the core (40_cycle.md R130): one step. -/

namespace Sys2Proof.Machine

/-- `step` (40_cycle.md R130); its keypad and random inputs are those of `State.nextInput`. -/
def step (s : State) : Host.Outcome State Fault Refusal := s.cycle exec

/-- `s` with the word of a table row's bits stored where the next step fetches, and the core ready to fetch it. -/
def State.withFetchWord (s : State) (nbits w : Nat) : State := s.placeWord (tableWord nbits w)

end Sys2Proof.Machine
end

