-- ==== Sys2Proof/Machine/Platform.lean ====
section
/-! DEFINITION. The host's side of the core: Load, reset, boot, the output ports, and the host actions between steps
(20_memory.md R90, R91; 70_reset_and_hazards.md R340, R343; 10_state.md R60, R61). -/

namespace Sys2Proof.Machine

/-- What `Load(bytes, offset)` does to the core when it may run: checked as a whole first, so a failed Load leaves memory
unchanged (20_memory.md R90).  When it may run is `Session.load`'s to say. -/
def State.load (s : State) (q : LoadRequest) : Host.Outcome State Fault Refusal :=
  if q.fits then .next (s.writeBytes q.offset q.bytes) else .refused .loadOutOfBounds

/-- Asserting `rst` (70_reset_and_hazards.md R340): every piece of the core's state at its reset value, memory included.
The environment's coming inputs and the model parameters are not the core's state and stay. -/
def State.assertReset (s : State) : State :=
  { State.resetWith s.params with inputs := s.inputs, inputIndex := s.inputIndex }

/-- Boot: reset, then `Load(image, 0x200)` (70_reset_and_hazards.md R343). -/
def State.boot (s : State) (image : List Byte) : Host.Outcome State Fault Refusal :=
  s.assertReset.load { bytes := image, offset := 0x0200 }

/-- The state in which the environment supplies `inp` to the next step. -/
def State.offer (s : State) (inp : StepInput) : State := { s with inputs := inp :: s.inputs }

/-- The core as its host holds it between two steps: `stepped` says whether a step has run since the last reset, which
decides whether a Load may run (20_memory.md R91).  It is the host's knowledge, no part of the core's state (10_state.md
R30). DESIGN CHOICE (log entry 9). -/
structure Session where
  core : State
  stepped : Bool
  deriving DecidableEq, Repr

/-- A core that has just been reset, with its host (70_reset_and_hazards.md R343, step 1). -/
def Session.start (s : State) : Session := { core := s.assertReset, stepped := false }

/-- A host action's outcome on the core, as an outcome of the session. -/
def Session.settle (stepped : Bool) : Host.Outcome State Fault Refusal → Host.Outcome Session Fault Refusal
  | .next s => .next { core := s, stepped := stepped }
  | .fault f => .fault f
  | .refused r => .refused r

/-- Load, before the first step only: a later one is not offered (20_memory.md R91; 93_implementation_defined.md U12). -/
def Session.load (p : Session) (q : LoadRequest) : Host.Outcome Session Fault Refusal :=
  if p.stepped then .refused .loadAfterFirstStep else Session.settle false (p.core.load q)

/-- One byte write of the `ld_addr`, `ld_data` port (10_state.md R60): the Load of one byte. -/
def Session.loadPort (p : Session) (addr : Addr) (data : Byte) : Host.Outcome Session Fault Refusal :=
  p.load { bytes := [data], offset := addr.toNat }

/-- What the host can do between two steps (00_scope.md R18, R19). -/
inductive HostAction where
  /-- Request one step with these inputs (40_cycle.md R130). -/
  | request (inp : StepInput)
  /-- Assert `rst` (70_reset_and_hazards.md R340). -/
  | reset
  /-- Load a program image (20_memory.md R90). -/
  | load (q : LoadRequest)
  deriving DecidableEq, Repr

/-- One host action. -/
def Session.act (p : Session) : HostAction → Host.Outcome Session Fault Refusal
  | .request inp => Session.settle true (step (p.core.offer inp))
  | .reset => .next (Session.start p.core)
  | .load q => p.load q

/-- Host actions one after another, up to the first that is turned away. -/
def Session.run (p : Session) : List HostAction → Host.Outcome Session Fault Refusal
  | [] => .next p
  | a :: as =>
    match p.act a with
    | .next p' => Session.run p' as
    | .fault f => .fault f
    | .refused r => .refused r

/-- "No Load after the first step" (20_memory.md R91) of a sequence of host actions; `stepped` says whether a step has run
since the last reset.  `Session.run` goes through such sequences alone (`Session.noLateLoad_of_run`). -/
def noLateLoad (stepped : Bool) : List HostAction → Bool
  | [] => true
  | .request _ :: as => noLateLoad true as
  | .reset :: as => noLateLoad false as
  | .load _ :: as => !stepped && noLateLoad stepped as

/-- The output ports (10_state.md R60); the 2048 wires of `fb` are `Ports.fbWire`. -/
structure Ports where
  fb : Framebuffer
  fbChanged : Bool
  beep : Bool
  halted : Bool
  faultCode : BitVec 3
  deriving DecidableEq, Repr

/-- The output ports between steps; a halted core shows `fb_changed` = 0 and `beep` = 0 (60_exceptions.md R304, D26). -/
def State.ports (s : State) : Ports :=
  { fb := s.fb
    fbChanged := s.changed && !s.halted
    beep := decide (0 < s.st.toNat) && !s.halted
    halted := s.halted
    faultCode := s.faultCode }

/-- Wire `k` of the 2048-bit `fb` port: pixel (x, y) on bit y*64 + x (10_state.md R60). -/
def Ports.fbWire (p : Ports) (k : Nat) : Bool := pixel p.fb (k % 64) (k / 64)

/-- `dbg_data` for a `dbg_addr`: `fault_pc` (0), `fault_opcode` (1), `fault_info` (2), else 0 (10_state.md R60). -/
def State.dbgData (s : State) (addr : BitVec 4) : Word :=
  match addr with
  | 0#4 => s.faultPc
  | 1#4 => s.faultOpcode
  | 2#4 => s.faultInfo
  | _ => 0

end Sys2Proof.Machine
end

