-- ==== Sys2Proof/Safety.lean ====
section
/-! DEFINITION. What counts as a safe run, and the words claims use: invariants, fault conditions, and which part of the
state two states agree on. -/

namespace Sys2Proof.Machine

/-- A core that has taken no fault: "a claim about a program takes 'no fault raised' as a premise" (60_exceptions.md
R304). -/
def State.Running (s : State) : Prop := s.halted = false

/-- A step in the view of R304, in which "the halted state is a fault outcome": a step that ends halted answers the
fault its record holds. -/
def checkedStep (s : State) : Host.Outcome State Fault Refusal :=
  match step s with
  | .next t =>
    if t.halted then
      match Fault.ofCode t.faultCode with
      | some f => .fault f
      | none => .next t
    else .next t
  | .fault f => .fault f
  | .refused r => .refused r

/-- The memory list is in its canonical form and inside the address space. -/
def State.MemOk (s : State) : Prop := Memory.wf s.params s.mem

/-- The fault record (10_state.md R56, R57; 60_exceptions.md R300, R302): clear while the core runs; when it is halted it
holds the code of a cause, the pc the core stopped at, and the dirty flag is down. -/
def State.RecordOk (s : State) : Prop :=
  (s.halted = false → s.faultCode = 0 ∧ s.faultPc = 0 ∧ s.faultOpcode = 0 ∧ s.faultInfo = 0) ∧
  (s.halted = true → (∃ f : Fault, s.faultCode = f.code) ∧ s.faultPc = s.pc ∧ s.changed = false)

/-- The pc and the valid stack entries stay where every run keeps them: pc at most 0x10FE (10_state.md R38), return
addresses at most 0x1000 (41_control_flow.md R162). -/
def State.PcOk (s : State) : Prop :=
  s.pc.toNat ≤ 0x10FE ∧ ∀ j : Fin 16, j.val < s.sp.val → s.stack[j.val].toNat ≤ 0x1000

/-- The invariant of the machine. -/
structure State.Inv (s : State) : Prop where
  mem : s.MemOk
  record : s.RecordOk
  pc : s.PcOk

/-- The instruction raises a fault in this state (60_exceptions.md R300); every other instruction raises none (R301). -/
def FaultWhen (s : State) : Instr → Prop
  | .ret => s.sp.val = 0
  | .call _ => s.sp.val = 16
  | .skp x => 0x0F < (s.reg x).toNat
  | .sknp x => 0x0F < (s.reg x).toNat
  | .ldB _ => 0xFFF < s.i.toNat + 2
  | .storeRegs x => 0xFFF < s.i.toNat + x.toNat
  | .loadRegs x => 0xFFF < s.i.toNat + x.toNat
  | .drw _ _ n => 0 < n.toNat ∧ 0xFFF < s.i.toNat + n.toNat - 1
  | _ => False

/-- The registers an instruction may write: the table of 10_state.md R33.  Fx0A is absent: it writes no register in its
own step (45_timers_keypad.md R284). -/
def WritesReg (r : Reg) : Instr → Prop
  | .ldImm x _ | .addImm x _ | .rnd x _ => r = x
  | .ldReg x _ | .orReg x _ | .andReg x _ | .xorReg x _ => r = x
  | .addReg x _ | .subReg x _ | .shr x _ | .subnReg x _ | .shl x _ => r = x ∨ r = VF
  | .ldVxDt x => r = x
  | .loadRegs x => r.toNat ≤ x.toNat
  | .drw _ _ _ | .addI _ => r = VF
  | _ => False

/-- The address `a` is one of the bytes the instruction stores to in this state (20_memory.md R70). -/
def StoresTo (s : State) (a : Nat) : Instr → Prop
  | .ldB _ => s.i.toNat ≤ a ∧ a < s.i.toNat + 3
  | .storeRegs x => s.i.toNat ≤ a ∧ a < s.i.toNat + (x.toNat + 1)
  | _ => False

/-- The byte address `a` holds after the instruction, when it raises no fault: Fx33 stores the decimal digits of V[x] at I,
I + 1, I + 2 and Fx55 stores V[r] at I + r (43_index_memory.md R235, R236); every other byte is as before. -/
def byteAfter (s : State) (a : Nat) : Instr → Byte
  | .ldB x =>
    if a = s.i.toNat then BitVec.ofNat 8 ((s.reg x).toNat / 100)
    else if a = s.i.toNat + 1 then BitVec.ofNat 8 ((s.reg x).toNat / 10 % 10)
    else if a = s.i.toNat + 2 then BitVec.ofNat 8 ((s.reg x).toNat % 10)
    else s.readByte a
  | .storeRegs x =>
    if s.i.toNat ≤ a ∧ a ≤ s.i.toNat + x.toNat then s.reg (BitVec.ofNat 4 (a - s.i.toNat)) else s.readByte a
  | _ => s.readByte a

/-- Same general registers. -/
def SameRegs (s t : State) : Prop := ∀ r : Reg, t.reg r = s.reg r

/-- Same general registers but for those in the list. -/
def SameRegsBut (rs : List Reg) (s t : State) : Prop := ∀ r : Reg, r ∉ rs → t.reg r = s.reg r

/-- Every byte of memory reads as before. -/
def SameMemory (s t : State) : Prop := ∀ a : Nat, t.readByte a = s.readByte a

/-- Same index register. -/
def SameIndex (s t : State) : Prop := t.i = s.i

/-- Same timers. -/
def SameTimers (s t : State) : Prop := t.dt = s.dt ∧ t.st = s.st

/-- Same call stack and stack depth. -/
def SameStack (s t : State) : Prop := t.sp = s.sp ∧ t.stack = s.stack

/-- Same framebuffer and dirty flag. -/
def SameDisplay (s t : State) : Prop := t.fb = s.fb ∧ t.changed = s.changed

/-- Same keypad snapshot and keypad-wait latch. -/
def SameKeypad (s t : State) : Prop := t.keypad = s.keypad ∧ t.waiting = s.waiting ∧ t.kreg = s.kreg

/-- Same halted bit and fault record. -/
def SameFault (s t : State) : Prop :=
  t.halted = s.halted ∧ t.faultCode = s.faultCode ∧ t.faultPc = s.faultPc ∧ t.faultOpcode = s.faultOpcode ∧
    t.faultInfo = s.faultInfo

/-- Same random byte, coming inputs and model parameters (the model's own fields). -/
def SameInputs (s t : State) : Prop :=
  t.rnd = s.rnd ∧ t.inputs = s.inputs ∧ t.inputIndex = s.inputIndex ∧ t.params = s.params

/-- Everything but the general registers, the index register, memory and the pc is as before. -/
def SameRest (s t : State) : Prop :=
  SameTimers s t ∧ SameStack s t ∧ SameDisplay s t ∧ SameKeypad s t ∧ SameFault s t ∧ SameInputs s t

/-- `t` is `s` with the fault record written: halted, code, pc, opcode and info as given, nothing else changed
(60_exceptions.md R302). -/
def FaultEntered (s t : State) (code : BitVec 3) (op info : Word) : Prop :=
  t.halted = true ∧ t.faultCode = code ∧ t.faultPc = s.pc ∧ t.faultOpcode = op ∧ t.faultInfo = info ∧
  t.pc = s.pc ∧ SameRegs s t ∧ SameMemory s t ∧ SameIndex s t ∧ SameTimers s t ∧ SameStack s t ∧
  SameDisplay s t ∧ SameKeypad s t ∧ SameInputs s t

/-- What an instruction that touches only registers does besides its result: NEXT, and nothing changes but the listed
registers. -/
def OnlyRegs (rs : List Reg) (s t : State) : Prop :=
  t.pc = s.pc + 2 ∧ SameRegsBut rs s t ∧ SameMemory s t ∧ SameIndex s t ∧ SameRest s t

/-- The address of the next instruction when the instruction raises no fault (40_cycle.md R139): JUMP for 1nnn, 2nnn, 00EE
and Bnnn, SKIP or NEXT for the conditional skips, NEXT for every other instruction. -/
def NextPc (s : State) : Instr → Word
  | .jp nnn | .call nnn => BitVec.ofNat 16 nnn.toNat
  | .ret => s.topOfStack
  | .jpV0 nnn => BitVec.ofNat 16 (nnn.toNat + (s.reg 0).toNat)
  | .seImm x kk => if s.reg x = kk then s.pc + 4 else s.pc + 2
  | .sneImm x kk => if s.reg x = kk then s.pc + 2 else s.pc + 4
  | .seReg x y => if s.reg x = s.reg y then s.pc + 4 else s.pc + 2
  | .sneReg x y => if s.reg x = s.reg y then s.pc + 2 else s.pc + 4
  | .skp x => if s.keypad.getLsbD (s.reg x).toNat then s.pc + 4 else s.pc + 2
  | .sknp x => if s.keypad.getLsbD (s.reg x).toNat then s.pc + 2 else s.pc + 4
  | _ => s.pc + 2

/-- Some 1 bit of the `n`-row sprite at I, placed at V[x], V[y], lands on framebuffer pixel (px, py): sprite pixel
(c, r) is bit 7 - c of byte r and lands on ((V[x] + c) mod 64, (V[y] + r) mod 32) (44_display.md R261). -/
def SpriteLit (s : State) (x y : Reg) (n : Count) (px py : Nat) : Prop :=
  ∃ r c : Nat, r < n.toNat ∧ c < 8 ∧ (s.readByte (s.i.toNat + r)).getLsbD (7 - c) = true ∧
    px = ((s.reg x).toNat + c) % 64 ∧ py = ((s.reg y).toNat + r) % 32

/-- Some pixel the sprite toggles is set: it goes from 1 to 0 (44_display.md R262). -/
def SpriteCollides (s : State) (x y : Reg) (n : Count) : Prop :=
  ∃ px py : Nat, px < 64 ∧ py < 32 ∧ SpriteLit s x y n px py ∧ pixel s.fb px py = true

end Sys2Proof.Machine
end

