-- ==== Sys2Proof/Certificates/Slice0/Obligations.lean ====
section
/-! DEFINITION. The statements for the provers, each from the rules of spec/ its docstring names. -/

open Sys2Proof Sys2Proof.Machine

/-! ## Encoding -/

/-- Decoding the word of an instruction gives the instruction back, every operand at every value (30_encoding.md R101 to
R105; the sub-opcodes 1 to 7 of 8xyN are the spec's decision D3). -/
def Obligations.DecodeEncode : Prop := ∀ i : Instr, decode (encode i) = .ok i

/-- A word the decoder reads is the word of the instruction it reads: no bit of a matched word is dropped. -/
def Obligations.EncodeDecode : Prop := ∀ (w : Word) (i : Instr), decode w = .ok i → encode i = w

/-- The decoder accepts exactly the words a row of the opcode map admits, and at most one row admits a word
(30_encoding.md, The opcode map; the rows 8xy1 to 8xy7 are decision D3, the literal low digit of 5xy0 and 9xy0 D23).
Which word is which instruction's is `Obligations.DecodeWords`. -/
def Obligations.DecodeMatchesMap : Prop :=
  ∀ w : Word,
    (∀ i, decode w = .ok i → ∃ r ∈ opcodeRows, r.admits w = true ∧ ∀ q ∈ opcodeRows, q.admits w = true → q = r) ∧
    (∀ g, decode w = .error g → ∀ r ∈ opcodeRows, r.admits w = false)

/-- The six groups of unmatched words (30_encoding.md, Words that match no instruction; 5xyN and 9xyN read literally is
decision D23, which digits of 8xyN match D3). -/
def Obligations.UnmatchedGroups : Prop :=
  ∀ w : Word,
    (decode w = .error .group0 ↔ w.toNat < 0x1000 ∧ w.toNat ≠ 0x00E0 ∧ w.toNat ≠ 0x00EE) ∧
    (decode w = .error .group5 ↔ w.toNat / 0x1000 = 5 ∧ w.toNat % 16 ≠ 0) ∧
    (decode w = .error .group8 ↔ w.toNat / 0x1000 = 8 ∧ 8 ≤ w.toNat % 16 ∧ w.toNat % 16 ≠ 14) ∧
    (decode w = .error .group9 ↔ w.toNat / 0x1000 = 9 ∧ w.toNat % 16 ≠ 0) ∧
    (decode w = .error .groupE ↔ w.toNat / 0x1000 = 14 ∧ w.toNat % 256 ∉ [0x9E, 0xA1]) ∧
    (decode w = .error .groupF ↔ w.toNat / 0x1000 = 15 ∧
      w.toNat % 256 ∉ [0x07, 0x0A, 0x15, 0x18, 0x1E, 0x29, 0x33, 0x55, 0x65])

/-- The word of every instruction, operand by operand, and six words written out from the opcode map with what they
decode to (30_encoding.md, Length and fields; The opcode map). The digits 1 to 7 of 8xy1 to 8xy7, and so that 0x8127 is
SUBN, are the spec's decision D3 (log entry 14); that 0x5121 matches no instruction is decision D23 (log entry 19). -/
def Obligations.DecodeWords : Prop :=
  (∀ (x y : Reg) (n : Count) (kk : Byte) (nnn : Addr),
    (encode .cls).toNat = 0x00E0 ∧
    (encode .ret).toNat = 0x00EE ∧
    (encode (.jp nnn)).toNat = 0x1000 + nnn.toNat ∧
    (encode (.call nnn)).toNat = 0x2000 + nnn.toNat ∧
    (encode (.seImm x kk)).toNat = 0x3000 + 256 * x.toNat + kk.toNat ∧
    (encode (.sneImm x kk)).toNat = 0x4000 + 256 * x.toNat + kk.toNat ∧
    (encode (.seReg x y)).toNat = 0x5000 + 256 * x.toNat + 16 * y.toNat ∧
    (encode (.ldImm x kk)).toNat = 0x6000 + 256 * x.toNat + kk.toNat ∧
    (encode (.addImm x kk)).toNat = 0x7000 + 256 * x.toNat + kk.toNat ∧
    (encode (.ldReg x y)).toNat = 0x8000 + 256 * x.toNat + 16 * y.toNat ∧
    (encode (.orReg x y)).toNat = 0x8001 + 256 * x.toNat + 16 * y.toNat ∧
    (encode (.andReg x y)).toNat = 0x8002 + 256 * x.toNat + 16 * y.toNat ∧
    (encode (.xorReg x y)).toNat = 0x8003 + 256 * x.toNat + 16 * y.toNat ∧
    (encode (.addReg x y)).toNat = 0x8004 + 256 * x.toNat + 16 * y.toNat ∧
    (encode (.subReg x y)).toNat = 0x8005 + 256 * x.toNat + 16 * y.toNat ∧
    (encode (.shr x y)).toNat = 0x8006 + 256 * x.toNat + 16 * y.toNat ∧
    (encode (.subnReg x y)).toNat = 0x8007 + 256 * x.toNat + 16 * y.toNat ∧
    (encode (.shl x y)).toNat = 0x800E + 256 * x.toNat + 16 * y.toNat ∧
    (encode (.sneReg x y)).toNat = 0x9000 + 256 * x.toNat + 16 * y.toNat ∧
    (encode (.ldI nnn)).toNat = 0xA000 + nnn.toNat ∧
    (encode (.jpV0 nnn)).toNat = 0xB000 + nnn.toNat ∧
    (encode (.rnd x kk)).toNat = 0xC000 + 256 * x.toNat + kk.toNat ∧
    (encode (.drw x y n)).toNat = 0xD000 + 256 * x.toNat + 16 * y.toNat + n.toNat ∧
    (encode (.skp x)).toNat = 0xE09E + 256 * x.toNat ∧
    (encode (.sknp x)).toNat = 0xE0A1 + 256 * x.toNat ∧
    (encode (.ldVxDt x)).toNat = 0xF007 + 256 * x.toNat ∧
    (encode (.ldVxK x)).toNat = 0xF00A + 256 * x.toNat ∧
    (encode (.ldDtVx x)).toNat = 0xF015 + 256 * x.toNat ∧
    (encode (.ldStVx x)).toNat = 0xF018 + 256 * x.toNat ∧
    (encode (.addI x)).toNat = 0xF01E + 256 * x.toNat ∧
    (encode (.ldF x)).toNat = 0xF029 + 256 * x.toNat ∧
    (encode (.ldB x)).toNat = 0xF033 + 256 * x.toNat ∧
    (encode (.storeRegs x)).toNat = 0xF055 + 256 * x.toNat ∧
    (encode (.loadRegs x)).toNat = 0xF065 + 256 * x.toNat) ∧
  decode 0x2ABC = .ok (.call 0xABC) ∧ decode 0x8127 = .ok (.subnReg 1 2) ∧ decode 0xFA55 = .ok (.storeRegs 0xA) ∧
  decode 0xD12F = .ok (.drw 1 2 0xF) ∧ decode 0xEBA1 = .ok (.sknp 0xB) ∧ decode 0x5121 = .error .group5

/-! ## The step -/

/-- A step whose bytes at pc decode to an instruction runs it, on the state after the keypad and random inputs are
sampled, the dirty flag is cleared and the timers have counted; the step's input is consumed, and nothing else differs
in that state (40_cycle.md R130, R131, R134, R135, R138). In which order the inputs come (`nextInput`, `inputs`,
`inputIndex`) is the model's choice, log entry 2. -/
def Obligations.StepRunsDecoded : Prop :=
  ∀ (s : State) (i : Instr), s.halted = false → s.waiting = false → s.pc.toNat ≤ 0xFFE →
    decodeBytes (s.readByte s.pc.toNat) (s.readByte (s.pc.toNat + 1)) = .ok i →
    ∃ u : State, step s = exec i u ∧
      u.keypad = s.nextInput.keys ∧ u.rnd = s.nextInput.rnd ∧ u.changed = false ∧
      u.dt.toNat = s.dt.toNat - 1 ∧ u.st.toNat = s.st.toNat - 1 ∧
      SameRegs s u ∧ SameMemory s u ∧ SameIndex s u ∧ SameStack s u ∧ SameFault s u ∧
      u.pc = s.pc ∧ u.fb = s.fb ∧ u.waiting = s.waiting ∧ u.kreg = s.kreg ∧ u.params = s.params ∧
      u.inputs = s.inputs.tail ∧ u.inputIndex = s.inputIndex + 1

/-- An unmatched word is a no-op: the step advances pc by 2 and writes nothing else beyond the phases every executed
step has (30_encoding.md, Words that match no instruction). -/
def Obligations.StepUnmatched : Prop :=
  ∀ (s : State) (g : Unmatched), s.halted = false → s.waiting = false → s.pc.toNat ≤ 0xFFE →
    decodeBytes (s.readByte s.pc.toNat) (s.readByte (s.pc.toNat + 1)) = .error g →
    ∃ t : State, step s = .next t ∧ t.pc = s.pc + 2 ∧
      SameRegs s t ∧ SameMemory s t ∧ SameIndex s t ∧ SameStack s t ∧ SameFault s t ∧
      t.fb = s.fb ∧ t.changed = false ∧ t.waiting = false ∧ t.kreg = s.kreg ∧ t.params = s.params ∧
      t.keypad = s.nextInput.keys ∧ t.dt.toNat = s.dt.toNat - 1 ∧ t.st.toNat = s.st.toNat - 1

/-- While halted, every step returns HALTED and changes nothing, and the outputs hold with the dirty flag and the beep
down (60_exceptions.md, The halted state; the forced-down outputs are decision D26, answering a next state is log
entry 1). -/
def Obligations.HaltedStep : Prop :=
  ∀ s : State, s.halted = true →
    step s = .next s ∧ s.result = .halted ∧ s.ports.fb = s.fb ∧ s.ports.fbChanged = false ∧ s.ports.beep = false ∧
    s.ports.halted = true ∧ s.ports.faultCode = s.faultCode

/-- A fetch at pc ≥ 0xFFF takes MEM_OUT_OF_BOUNDS with info pc and opcode 0; the sample and the countdown of the step
stay, nothing else changes (40_cycle.md section 5, 60_exceptions.md section 2; decisions D7, D18, D19). -/
def Obligations.FetchFault : Prop :=
  ∀ s : State, s.halted = false → s.waiting = false → 0xFFF ≤ s.pc.toNat →
    ∃ t : State, step s = .next t ∧ t.halted = true ∧ t.faultCode = 3 ∧ t.faultPc = s.pc ∧ t.faultOpcode = 0 ∧
      t.faultInfo = s.pc ∧ t.pc = s.pc ∧ t.dt.toNat = s.dt.toNat - 1 ∧ t.st.toNat = s.st.toNat - 1 ∧
      t.keypad = s.nextInput.keys ∧ t.changed = false ∧ t.fb = s.fb ∧ t.waiting = false ∧ t.kreg = s.kreg ∧
      SameRegs s t ∧ SameMemory s t ∧ SameIndex s t ∧ SameStack s t ∧ t.result = .halted

/-- The wait service (40_cycle.md R132): the lowest pressed key of this step's input is written to V[kreg] and clears
the latch; when no key is pressed, no register and no latch is written. -/
def Obligations.WaitFindsKey : Prop :=
  ∀ s : State, s.halted = false → s.waiting = true →
    ∃ t : State, step s = .next t ∧
      (∀ k : Nat, k < 16 → s.nextInput.keys.getLsbD k = true → (∀ j < k, s.nextInput.keys.getLsbD j = false) →
        (t.reg s.kreg).toNat = k ∧ t.waiting = false ∧ SameRegsBut [s.kreg] s t) ∧
      (s.nextInput.keys = 0 → SameRegs s t ∧ t.waiting = true)

/-- A wait step pauses the core (40_cycle.md R133): timers, pc, I, stack, memory and framebuffer are unchanged whether a
key was found or not, and the output is (fb, 0, ST > 0). -/
def Obligations.WaitStepPauses : Prop :=
  ∀ s : State, s.halted = false → s.waiting = true →
    ∃ t : State, step s = .next t ∧ t.pc = s.pc ∧ SameTimers s t ∧ SameIndex s t ∧ SameStack s t ∧ SameMemory s t ∧
      t.fb = s.fb ∧ t.changed = false ∧ t.keypad = s.nextInput.keys ∧ t.kreg = s.kreg ∧ SameFault s t ∧
      SameRegsBut [s.kreg] s t ∧ t.params = s.params ∧
      t.result = .output { fb := s.fb, changed := false, beep := decide (0 < s.st.toNat) }

/-- Phase 1 (40_cycle.md section 2): a step that is not halted ends with this step's keypad input as its snapshot, and
nothing in it depends on the snapshot or the dirty flag of the step before. It consumes the step's input, so that the
next step sees the next one; how the inputs are listed and indexed (`inputs`, `inputIndex`, `rnd`), and that the
parameters stay in State, is the model's choice, log entries 2 to 4. -/
def Obligations.SnapshotFresh : Prop :=
  ∀ s : State, s.halted = false →
    (∀ t : State, step s = .next t → t.keypad = s.nextInput.keys ∧ t.rnd = s.nextInput.rnd ∧
      t.inputs = s.inputs.tail ∧ t.inputIndex = s.inputIndex + 1 ∧ t.params = s.params) ∧
    (∀ (k : BitVec 16) (c : Bool), step { s with keypad := k, changed := c } = step s)

/-- The countdown (40_cycle.md section 4; in a faulting step it is decision D19): in every step that is neither halted
nor a wait step each timer loses one unless it is 0, whatever runs, but for the timer an Fx15 or Fx18 sets. -/
def Obligations.TimersCount : Prop :=
  ∀ s t : State, s.halted = false → s.waiting = false → step s = .next t →
    ((∀ x w, s.fetch = some w → decode w ≠ .ok (.ldDtVx x)) → t.dt.toNat = s.dt.toNat - 1) ∧
    ((∀ x w, s.fetch = some w → decode w ≠ .ok (.ldStVx x)) → t.st.toNat = s.st.toNat - 1)

/-- The dirty flag (10_state.md section 8, 90_conflicts.md C3): after a step that is not halted it is up exactly when the
step executed a 00E0 or a Dxyn (one that took no fault, which is decision D7, log entry 16). -/
def Obligations.DirtyFlag : Prop :=
  ∀ s t : State, s.halted = false → step s = .next t →
    (t.changed = true ↔ s.waiting = false ∧ ∃ w, s.fetch = some w ∧
      (decode w = .ok .cls ∨ ∃ x y n, decode w = .ok (.drw x y n) ∧ ¬ FaultWhen s (.drw x y n)))

/-- The core never stops stepping: every step from every state answers a next state (40_cycle.md section 9; that a halted
core answers its own state is log entry 1). -/
def Obligations.StepNeverStops : Prop := ∀ s : State, ∃ t : State, step s = .next t

/-- The output of a step that neither faulted nor was halted is the framebuffer, dirty flag and ST > 0 of the state it
ends in, and the output ports show the same, pixel (x, y) on wire y*64 + x (40_cycle.md R140; the ports are 10_state.md
section 13, decision D1). -/
def Obligations.OutputRecord : Prop :=
  ∀ s t : State, step s = .next t → t.halted = false →
    t.result = .output { fb := t.fb, changed := t.changed, beep := decide (0 < t.st.toNat) } ∧
    (∀ px py, px < 64 → py < 32 → t.ports.fbWire (py * 64 + px) = pixel t.fb px py) ∧
    t.ports.fbChanged = t.changed ∧ t.ports.beep = decide (0 < t.st.toNat)

/-- The word placed by `withFetchWord` is the word the very next step runs, from every state (20_memory.md section 1:
high byte at the lower address). -/
def Obligations.FetchWordRuns : Prop :=
  ∀ (s : State) (w : Nat) (i : Instr), decodeTableWord 16 w = some i →
    step (s.withFetchWord 16 w) = exec i (s.withFetchWord 16 w).sample.countdown

/-! ## Reset and invariants -/

/-- What reset leaves as the source states it (10_state.md R34, R39, R41): every general register 0, pc 0x200, where the
first step fetches, and I 0x200; from any state and any parameters. -/
def Obligations.ResetValues : Prop :=
  ∀ s : State, (∀ r : Reg, s.assertReset.reg r = 0) ∧ s.assertReset.pc = 0x200 ∧ s.assertReset.i = 0x200 ∧
    s.assertReset.fetch = some (wordOfBytes (s.assertReset.readByte 0x200) (s.assertReset.readByte 0x201)) ∧
    State.reset.pc = 0x200 ∧ State.reset.i = 0x200 ∧ ∀ r : Reg, State.reset.reg r = 0

/-- What reset leaves by the spec's own decisions D10, D11, D12 (10_state.md section 1): stack empty and zero, timers,
framebuffer, dirty flag, keypad, latch and fault record clear, memory the font and zeros. -/
def Obligations.ResetDecided : Prop :=
  ∀ s : State,
    s.assertReset.sp = 0 ∧ (∀ j : Fin 16, s.assertReset.stack[j.val] = 0) ∧ s.assertReset.dt = 0 ∧ s.assertReset.st = 0 ∧
    (∀ px py, pixel s.assertReset.fb px py = false) ∧ s.assertReset.changed = false ∧
    s.assertReset.keypad = 0 ∧ s.assertReset.waiting = false ∧
    s.assertReset.kreg = 0 ∧ s.assertReset.halted = false ∧ s.assertReset.faultCode = 0 ∧ s.assertReset.faultPc = 0 ∧
    s.assertReset.faultOpcode = 0 ∧ s.assertReset.faultInfo = 0 ∧
    (∀ a : Fin 80, s.assertReset.readByte a.val = s.params.font[a.val]) ∧
    (∀ a : Nat, 80 ≤ a → s.assertReset.readByte a = 0)

/-- The invariant holds after reset, whatever the model parameters (the invariant is `State.Inv`). -/
def Obligations.ResetInv : Prop := (∀ p : Params, (State.resetWith p).Inv) ∧ ∀ s : State, s.assertReset.Inv

/-- Every step keeps the invariant: memory stays canonical and inside 0x000 to 0xFFF, the fault record stays clear while
the core runs and consistent when it halts, pc stays at most 0x10FE and return addresses at most 0x1000 (10_state.md
sections 3, 6, 10; 60_exceptions.md section 2; the bound of pc rests on decision D14, log entry 17, the record on D18, log
entry 16). -/
def Obligations.StepKeepsInv : Prop := ∀ s t : State, s.Inv → step s = .next t → t.Inv

/-! ## Faults -/

/-- An instruction raises a fault exactly under the conditions of 60_exceptions.md section 1 (decisions D7, D15 for codes
3 and 4), and no other instruction raises any. -/
def Obligations.FaultExactly : Prop :=
  ∀ (i : Instr) (s t : State), s.halted = false → exec i s = .next t → (t.halted = true ↔ FaultWhen s i)

/-- Faults are precise: an instruction that faults writes the fault record, with its own word, and nothing else
(60_exceptions.md section 2, decision D18). -/
def Obligations.FaultPrecise : Prop :=
  ∀ (i : Instr) (s : State), FaultWhen s i →
    ∃ (t : State) (code : BitVec 3) (info : Word), exec i s = .next t ∧ FaultEntered s t code (encode i) info ∧
      1 ≤ code.toNat ∧ code.toNat ≤ 4

/-! ## What each part of the state is written by -/

/-- The only writes of general registers are those of the table of 10_state.md section 2; VF is written as a flag only by
8xy4 to 8xy7, 8xyE, Dxyn and Fx1E (section 14; that 8xy1 to 8xy3 leave VF is decision D5). -/
def Obligations.RegistersWritten : Prop :=
  ∀ (i : Instr) (s t : State), exec i s = .next t → ∀ r : Reg, ¬ WritesReg r i → t.reg r = s.reg r

/-- I is written by Annn, Fx1E and Fx29 only; no transfer and no draw moves it (10_state.md section 4; that the transfers
leave I is decision D6). -/
def Obligations.IndexWritten : Prop :=
  ∀ (i : Instr) (s t : State), exec i s = .next t →
    (∀ nnn, i ≠ .ldI nnn) → (∀ x, i ≠ .addI x) → (∀ x, i ≠ .ldF x) → t.i = s.i

/-- Memory is written by Fx33 and Fx55 only, and by them only at their own bytes (20_memory.md section 1, 90_conflicts.md
C8). -/
def Obligations.MemoryWritten : Prop :=
  ∀ (i : Instr) (s t : State), exec i s = .next t → ∀ a : Nat, ¬ StoresTo s a i → t.readByte a = s.readByte a

/-- The framebuffer and the dirty flag are written by 00E0 and Dxyn only (10_state.md section 8). -/
def Obligations.DisplayWritten : Prop :=
  ∀ (i : Instr) (s t : State), exec i s = .next t → i ≠ .cls → (∀ x y n, i ≠ .drw x y n) → SameDisplay s t

/-- Only 2nnn and 00EE touch the stack (10_state.md section 6). -/
def Obligations.StackWritten : Prop :=
  ∀ (i : Instr) (s t : State), exec i s = .next t → i ≠ .ret → (∀ nnn, i ≠ .call nnn) → SameStack s t

/-- Among instructions only Fx15 writes DT and only Fx18 writes ST (10_state.md section 11). -/
def Obligations.TimersWritten : Prop :=
  ∀ (i : Instr) (s t : State), exec i s = .next t →
    ((∀ x, i ≠ .ldDtVx x) → t.dt = s.dt) ∧ ((∀ x, i ≠ .ldStVx x) → t.st = s.st)

/-- Only Fx0A writes the latch; no instruction writes the keypad snapshot, the step's inputs or the model parameters
(10_state.md sections 9, 11, 12; the inputs held in State are log entries 2 to 4). -/
def Obligations.LatchWritten : Prop :=
  ∀ (i : Instr) (s t : State), exec i s = .next t →
    t.keypad = s.keypad ∧ SameInputs s t ∧ ((∀ x, i ≠ .ldVxK x) → t.waiting = s.waiting ∧ t.kreg = s.kreg)

/-- The pc transition of every step (40_cycle.md section 7): JUMP for 1nnn, 2nnn, 00EE and Bnnn, SKIP for a conditional
skip whose condition holds, NEXT for every other instruction and every unmatched word; none for an instruction's fault,
a fetch fault or a wait step. The targets are those of 41_control_flow.md, the exact sum of Bnnn being decision D14 (log
entry 17); which instruction faults when is 60_exceptions.md section 1, with decisions D7 and D15 (log entry 16); NEXT
for Fx0A is D25 and for 5xyN and 9xyN with N ≠ 0 D23 (log entry 19). -/
def Obligations.PcTransition : Prop :=
  (∀ (i : Instr) (s : State), ¬ FaultWhen s i → ∃ t, exec i s = .next t ∧ t.pc = NextPc s i) ∧
  (∀ (i : Instr) (s : State), FaultWhen s i → ∃ t, exec i s = .next t ∧ t.pc = s.pc) ∧
  (∀ (s : State) (w : Word) (g : Unmatched), decode w = .error g →
    ∃ t, s.executeWord exec w = .next t ∧ t.pc = s.pc + 2) ∧
  (∀ s : State, s.halted = false → s.waiting = true → ∃ t, step s = .next t ∧ t.pc = s.pc) ∧
  (∀ s : State, s.halted = false → s.waiting = false → 0xFFF ≤ s.pc.toNat → ∃ t, step s = .next t ∧ t.pc = s.pc)

/-- Ex9E and ExA1 are the only instructions that read the keypad, and Cxkk the only one that reads the random byte: every
other instruction does the same whatever they hold (40_cycle.md section 6). -/
def Obligations.InputsRead : Prop :=
  ∀ (i : Instr) (s t : State), exec i s = .next t →
    ((∀ x, i ≠ .skp x) → (∀ x, i ≠ .sknp x) → ∀ k, exec i { s with keypad := k } = .next { t with keypad := k }) ∧
    ((∀ x kk, i ≠ .rnd x kk) → ∀ b, exec i { s with rnd := b } = .next { t with rnd := b })

/-! ## Control flow -/

/-- 00EE with a stack that is not empty returns to the top entry and drops it, and with an empty stack takes
STACK_UNDERFLOW (41_control_flow.md, 00EE; the record is decision D18, that the entry keeps its value D13). -/
def Obligations.RetReturns : Prop :=
  ∀ s : State,
    (0 < s.sp.val → ∃ t, exec .ret s = .next t ∧ s.stack[s.sp.val - 1]? = some t.pc ∧ t.sp.val = s.sp.val - 1 ∧
      t.stack = s.stack ∧ SameRegs s t ∧ SameMemory s t ∧ SameIndex s t ∧ SameTimers s t ∧ SameDisplay s t ∧
      SameKeypad s t ∧ SameFault s t ∧ SameInputs s t) ∧
    (s.sp.val = 0 → ∃ t, exec .ret s = .next t ∧ FaultEntered s t 2 0x00EE 0)

/-- 1nnn, the word 0x1000 + nnn, sets pc to nnn, any nnn, and changes nothing else (41_control_flow.md R161). -/
def Obligations.JumpsTo : Prop :=
  ∀ (nnn : Addr) (s : State), ∃ t, exec (.jp nnn) s = .next t ∧ t.pc.toNat = nnn.toNat ∧
    SameRegs s t ∧ SameMemory s t ∧ SameIndex s t ∧ SameRest s t ∧ (encode (.jp nnn)).toNat = 0x1000 + nnn.toNat

/-- Bnnn sets pc to the exact sum nnn + V0, not reduced to 12 bits, and changes nothing else (41_control_flow.md, Bnnn;
the exact sum is decision D14). -/
def Obligations.JumpIndexed : Prop :=
  ∀ (nnn : Addr) (s : State), ∃ t, exec (.jpV0 nnn) s = .next t ∧ t.pc.toNat = nnn.toNat + (s.reg 0).toNat ∧
    SameRegs s t ∧ SameMemory s t ∧ SameIndex s t ∧ SameRest s t

/-- 2nnn with room on the stack pushes pc + 2 and jumps to nnn, and with a full stack takes STACK_OVERFLOW with info 16
(41_control_flow.md, 2nnn; the 16-bit entries and the order of push are decision D13, the record D18). -/
def Obligations.CallPushes : Prop :=
  ∀ (nnn : Addr) (s : State),
    (s.sp.val < 16 → ∃ t, exec (.call nnn) s = .next t ∧ t.pc.toNat = nnn.toNat ∧ t.sp.val = s.sp.val + 1 ∧
      t.stack[s.sp.val]? = some (s.pc + 2) ∧ (∀ j, j ≠ s.sp.val → t.stack[j]? = s.stack[j]?) ∧
      SameRegs s t ∧ SameMemory s t ∧ SameIndex s t ∧ SameTimers s t ∧ SameDisplay s t ∧ SameKeypad s t ∧
      SameFault s t ∧ SameInputs s t) ∧
    (s.sp.val = 16 → ∃ t, exec (.call nnn) s = .next t ∧ FaultEntered s t 1 (encode (.call nnn)) 16)

/-- 3xkk skips when V[x] = kk and 4xkk when it does not; neither changes anything else; their words are 0x3000 and 0x4000
plus 256 x + kk (41_control_flow.md R163, R164). -/
def Obligations.SkipImmediate : Prop :=
  ∀ (x : Reg) (kk : Byte) (s : State),
    (∃ t, exec (.seImm x kk) s = .next t ∧ t.pc = (if s.reg x = kk then s.pc + 4 else s.pc + 2) ∧
      SameRegs s t ∧ SameMemory s t ∧ SameIndex s t ∧ SameRest s t) ∧
    (∃ t, exec (.sneImm x kk) s = .next t ∧ t.pc = (if s.reg x ≠ kk then s.pc + 4 else s.pc + 2) ∧
      SameRegs s t ∧ SameMemory s t ∧ SameIndex s t ∧ SameRest s t) ∧
    (encode (.seImm x kk)).toNat = 0x3000 + 256 * x.toNat + kk.toNat ∧
    (encode (.sneImm x kk)).toNat = 0x4000 + 256 * x.toNat + kk.toNat

/-- 5xy0 skips when V[x] = V[y] and 9xy0 when they differ; neither changes anything else; a word 5xyN or 9xyN with N ≠ 0
is neither (41_control_flow.md, 5xy0 and 9xy0; the literal low digit is decision D23). -/
def Obligations.SkipRegister : Prop :=
  ∀ (x y : Reg) (s : State),
    (∃ t, exec (.seReg x y) s = .next t ∧ t.pc = (if s.reg x = s.reg y then s.pc + 4 else s.pc + 2) ∧
      SameRegs s t ∧ SameMemory s t ∧ SameIndex s t ∧ SameRest s t) ∧
    (∃ t, exec (.sneReg x y) s = .next t ∧ t.pc = (if s.reg x ≠ s.reg y then s.pc + 4 else s.pc + 2) ∧
      SameRegs s t ∧ SameMemory s t ∧ SameIndex s t ∧ SameRest s t) ∧
    (encode (.seReg x y)).toNat = 0x5000 + 256 * x.toNat + 16 * y.toNat ∧
    (encode (.sneReg x y)).toNat = 0x9000 + 256 * x.toNat + 16 * y.toNat ∧
    (∀ n : BitVec 4, n ≠ 0 → decode (formatXY 5 x y n) = .error .group5 ∧ decode (formatXY 9 x y n) = .error .group9)

/-- A call and its return (41_control_flow.md R169): after 2nnn, a 00EE from any state that holds the same stack restores
pc to the instruction after the call and the stack depth to what it was; neither writes a register or memory. -/
def Obligations.CallReturn : Prop :=
  ∀ (nnn : Addr) (s : State), s.sp.val < 16 → ∃ t, exec (.call nnn) s = .next t ∧
    SameRegs s t ∧ SameMemory s t ∧
    ∀ t' : State, SameStack t t' →
      ∃ u, exec .ret t' = .next u ∧ u.pc = s.pc + 2 ∧ u.sp = s.sp ∧ SameRegs t' u ∧ SameMemory t' u

/-! ## ALU -/

/-- 6xkk, 7xkk and 8xy0 write kk, V[x] + kk modulo 256 and V[y] to V[x], and nothing else but NEXT: no flag, unless VF is
the destination; their words are 0x6000, 0x7000 and 0x8000 plus the operand fields (42_alu.md R192, R193, R194). -/
def Obligations.LoadAddCopy : Prop :=
  ∀ (x y : Reg) (kk : Byte) (s : State),
    (∃ t, exec (.ldImm x kk) s = .next t ∧ t.reg x = kk ∧ OnlyRegs [x] s t) ∧
    (∃ t, exec (.addImm x kk) s = .next t ∧ (t.reg x).toNat = ((s.reg x).toNat + kk.toNat) % 256 ∧
      OnlyRegs [x] s t) ∧
    (∃ t, exec (.ldReg x y) s = .next t ∧ t.reg x = s.reg y ∧ OnlyRegs [x] s t) ∧
    (encode (.ldImm x kk)).toNat = 0x6000 + 256 * x.toNat + kk.toNat ∧
    (encode (.addImm x kk)).toNat = 0x7000 + 256 * x.toNat + kk.toNat ∧
    (encode (.ldReg x y)).toNat = 0x8000 + 256 * x.toNat + 16 * y.toNat

/-- 8xy1, 8xy2 and 8xy3 write the bitwise OR, AND and XOR to V[x]; VF is not written (42_alu.md; that VF is kept is
decision D5). -/
def Obligations.LogicOps : Prop :=
  ∀ (x y : Reg) (s : State),
    (∃ t, exec (.orReg x y) s = .next t ∧ (∀ k, (t.reg x).getLsbD k = ((s.reg x).getLsbD k || (s.reg y).getLsbD k)) ∧
      OnlyRegs [x] s t) ∧
    (∃ t, exec (.andReg x y) s = .next t ∧ (∀ k, (t.reg x).getLsbD k = ((s.reg x).getLsbD k && (s.reg y).getLsbD k)) ∧
      OnlyRegs [x] s t) ∧
    (∃ t, exec (.xorReg x y) s = .next t ∧ (∀ k, (t.reg x).getLsbD k = ((s.reg x).getLsbD k ^^ (s.reg y).getLsbD k)) ∧
      OnlyRegs [x] s t)

/-- 8xy4 writes the sum modulo 256 to V[x] and the carry to VF last, so VF holds the carry even when x = F (42_alu.md;
the order is decision D4). -/
def Obligations.AddCarry : Prop :=
  ∀ (x y : Reg) (s : State), ∃ t, exec (.addReg x y) s = .next t ∧
    (x ≠ VF → (t.reg x).toNat = ((s.reg x).toNat + (s.reg y).toNat) % 256) ∧
    (t.reg VF).toNat = (if 255 < (s.reg x).toNat + (s.reg y).toNat then 1 else 0) ∧ OnlyRegs [x, VF] s t

/-- 8xy5 and 8xy7 write V[x] - V[y] and V[y] - V[x] modulo 256 to V[x], and to VF last whether the minuend was strictly
greater (42_alu.md; the order is decision D4). -/
def Obligations.SubtractNotBorrow : Prop :=
  ∀ (x y : Reg) (s : State),
    (∃ t, exec (.subReg x y) s = .next t ∧
      (x ≠ VF → (t.reg x).toNat = (256 + (s.reg x).toNat - (s.reg y).toNat) % 256) ∧
      (t.reg VF).toNat = (if (s.reg y).toNat < (s.reg x).toNat then 1 else 0) ∧ OnlyRegs [x, VF] s t) ∧
    (∃ t, exec (.subnReg x y) s = .next t ∧
      (x ≠ VF → (t.reg x).toNat = (256 + (s.reg y).toNat - (s.reg x).toNat) % 256) ∧
      (t.reg VF).toNat = (if (s.reg x).toNat < (s.reg y).toNat then 1 else 0) ∧ OnlyRegs [x, VF] s t)

/-- 8xy6 halves V[x] and 8xyE doubles it modulo 256; VF, written last, is the bit shifted out; V[y] is ignored: the effect
is the same for every y (42_alu.md; the order is decision D4). -/
def Obligations.ShiftsByOne : Prop :=
  ∀ (x y : Reg) (s : State),
    (∃ t, exec (.shr x y) s = .next t ∧ (x ≠ VF → (t.reg x).toNat = (s.reg x).toNat / 2) ∧
      (t.reg VF).toNat = (s.reg x).toNat % 2 ∧ OnlyRegs [x, VF] s t ∧ ∀ z, exec (.shr x z) s = .next t) ∧
    (∃ t, exec (.shl x y) s = .next t ∧ (x ≠ VF → (t.reg x).toNat = (2 * (s.reg x).toNat) % 256) ∧
      (t.reg VF).toNat = (s.reg x).toNat / 128 ∧ OnlyRegs [x, VF] s t ∧ ∀ z, exec (.shl x z) s = .next t)

/-- Cxkk writes the step's random byte AND kk to V[x], for every random byte (42_alu.md; the byte as a free input is
decision D16, held in State by log entry 3). -/
def Obligations.RandomMasked : Prop :=
  ∀ (x : Reg) (kk : Byte) (s : State), ∃ t, exec (.rnd x kk) s = .next t ∧
    (∀ k, (t.reg x).getLsbD k = (s.rnd.getLsbD k && kk.getLsbD k)) ∧ OnlyRegs [x] s t

/-! ## Index register and memory transfers -/

/-- Annn, the word 0xA000 + nnn, sets I to nnn and changes nothing else but pc (43_index_memory.md R231). -/
def Obligations.LoadIndex : Prop :=
  ∀ (nnn : Addr) (s : State), ∃ t, exec (.ldI nnn) s = .next t ∧ t.i.toNat = nnn.toNat ∧ t.pc = s.pc + 2 ∧
    SameRegs s t ∧ SameMemory s t ∧ SameRest s t ∧ (encode (.ldI nnn)).toNat = 0xA000 + nnn.toNat

/-- Fx1E adds V[x] to I modulo 2^16 without clamping and sets VF exactly when the exact sum exceeds FX1E_LIMIT, whatever
that parameter is; x = F adds the old VF (43_index_memory.md; the modulus and the parameter are decision D8, the order
D4). -/
def Obligations.AddIndex : Prop :=
  ∀ (x : Reg) (s : State), ∃ t, exec (.addI x) s = .next t ∧
    t.i.toNat = (s.i.toNat + (s.reg x).toNat) % 65536 ∧
    (t.reg VF).toNat = (if s.params.fx1eLimit.toNat < s.i.toNat + (s.reg x).toNat then 1 else 0) ∧
    t.pc = s.pc + 2 ∧ SameRegsBut [VF] s t ∧ SameMemory s t ∧ SameRest s t

/-- Fx29 sets I to 5 V[x] on the full byte and changes nothing else but pc (43_index_memory.md; no mask is decision D9).
-/
def Obligations.FontIndex : Prop :=
  ∀ (x : Reg) (s : State), ∃ t, exec (.ldF x) s = .next t ∧ t.i.toNat = 5 * (s.reg x).toNat ∧ t.pc = s.pc + 2 ∧
    SameRegs s t ∧ SameMemory s t ∧ SameRest s t

/-- Fx33 stores the three decimal digits of V[x] at I, I + 1, I + 2, and past 0xFFF takes MEM_OUT_OF_BOUNDS with info I
and no write (43_index_memory.md; the fault is decision D7, that I stays D6). -/
def Obligations.StoreDecimal : Prop :=
  ∀ (x : Reg) (s : State),
    (s.i.toNat + 2 ≤ 0xFFF → ∃ t, exec (.ldB x) s = .next t ∧
      (t.readByte s.i.toNat).toNat = (s.reg x).toNat / 100 ∧
      (t.readByte (s.i.toNat + 1)).toNat = (s.reg x).toNat / 10 % 10 ∧
      (t.readByte (s.i.toNat + 2)).toNat = (s.reg x).toNat % 10 ∧
      (∀ a, a < s.i.toNat ∨ s.i.toNat + 3 ≤ a → t.readByte a = s.readByte a) ∧
      t.pc = s.pc + 2 ∧ SameRegs s t ∧ SameIndex s t ∧ SameRest s t) ∧
    (0xFFF < s.i.toNat + 2 → ∃ t, exec (.ldB x) s = .next t ∧ FaultEntered s t 3 (encode (.ldB x)) s.i)

/-- Fx55 stores V[0] to V[x] at I to I + x, and past 0xFFF takes MEM_OUT_OF_BOUNDS with info I and no write
(43_index_memory.md; the fault is decision D7, that I stays D6). -/
def Obligations.StoreRegisters : Prop :=
  ∀ (x : Reg) (s : State),
    (s.i.toNat + x.toNat ≤ 0xFFF → ∃ t, exec (.storeRegs x) s = .next t ∧
      (∀ r : Reg, r.toNat ≤ x.toNat → t.readByte (s.i.toNat + r.toNat) = s.reg r) ∧
      (∀ a, a < s.i.toNat ∨ s.i.toNat + (x.toNat + 1) ≤ a → t.readByte a = s.readByte a) ∧
      t.pc = s.pc + 2 ∧ SameRegs s t ∧ SameIndex s t ∧ SameRest s t) ∧
    (0xFFF < s.i.toNat + x.toNat →
      ∃ t, exec (.storeRegs x) s = .next t ∧ FaultEntered s t 3 (encode (.storeRegs x)) s.i)

/-- Fx65 loads V[0] to V[x] from I to I + x and keeps the other registers, and past 0xFFF takes MEM_OUT_OF_BOUNDS with
info I and no write (43_index_memory.md; the fault is decision D7, that I stays D6). -/
def Obligations.LoadRegisters : Prop :=
  ∀ (x : Reg) (s : State),
    (s.i.toNat + x.toNat ≤ 0xFFF → ∃ t, exec (.loadRegs x) s = .next t ∧
      (∀ r : Reg, r.toNat ≤ x.toNat → t.reg r = s.readByte (s.i.toNat + r.toNat)) ∧
      (∀ r : Reg, x.toNat < r.toNat → t.reg r = s.reg r) ∧
      t.pc = s.pc + 2 ∧ SameMemory s t ∧ SameIndex s t ∧ SameRest s t) ∧
    (0xFFF < s.i.toNat + x.toNat →
      ∃ t, exec (.loadRegs x) s = .next t ∧ FaultEntered s t 3 (encode (.loadRegs x)) s.i)

/-- A store is seen by the next fetch with no fence (20_memory.md section 5): after any instruction, a core with that
memory that fetches at any pc, over the stored bytes in whole, in part or not at all, fetches the bytes the instruction
left (those Fx33 and Fx55 stored, every other byte as before), and runs what they decode to. Where the instruction
faults it stores nothing (`Obligations.FaultPrecise`); when it faults is decision D7 for the stores (log entry 16). -/
def Obligations.StoreThenFetch : Prop :=
  ∀ (i : Instr) (s : State), ¬ FaultWhen s i →
    ∃ t, exec i s = .next t ∧
      ∀ t' : State, t'.pc.toNat ≤ 0xFFE → SameMemory t t' →
        t'.fetch = some (wordOfBytes (byteAfter s t'.pc.toNat i) (byteAfter s (t'.pc.toNat + 1) i)) ∧
        ∀ j : Instr, t'.halted = false → t'.waiting = false →
          decodeBytes (byteAfter s t'.pc.toNat i) (byteAfter s (t'.pc.toNat + 1) i) = .ok j →
          step t' = exec j t'.sample.countdown

/-! ## Display -/

/-- 00E0, the one word 0x00E0, clears every pixel and sets the dirty flag, whether or not a pixel was set, and writes
nothing else but pc (44_display.md R260). -/
def Obligations.ClearScreen : Prop :=
  ∀ s : State, ∃ t, exec .cls s = .next t ∧ (∀ px py, px < 64 → py < 32 → pixel t.fb px py = false) ∧
    t.changed = true ∧ t.pc = s.pc + 2 ∧ SameRegs s t ∧ SameMemory s t ∧ SameIndex s t ∧ SameTimers s t ∧
    SameStack s t ∧ SameKeypad s t ∧ SameFault s t ∧ SameInputs s t ∧ encode .cls = 0x00E0

/-- Dxyn toggles exactly the pixels the sprite's 1 bits land on, with wrap in both directions, sets the dirty flag, and
writes VF = 1 exactly when a toggled pixel was set; sprite bytes past 0xFFF take MEM_OUT_OF_BOUNDS with info I and no
write (44_display.md; the bit order is decision D17, the order of VF D4, the fault D7). -/
def Obligations.DrawSprite : Prop :=
  ∀ (x y : Reg) (n : Count) (s : State),
    (¬ FaultWhen s (.drw x y n) → ∃ t, exec (.drw x y n) s = .next t ∧
      (∀ px py, px < 64 → py < 32 →
        (SpriteLit s x y n px py → pixel t.fb px py = !pixel s.fb px py) ∧
        (¬ SpriteLit s x y n px py → pixel t.fb px py = pixel s.fb px py)) ∧
      (SpriteCollides s x y n → t.reg VF = 1) ∧ (¬ SpriteCollides s x y n → t.reg VF = 0) ∧
      t.changed = true ∧ t.pc = s.pc + 2 ∧ SameRegsBut [VF] s t ∧ SameMemory s t ∧ SameIndex s t ∧
      SameTimers s t ∧ SameStack s t ∧ SameKeypad s t ∧ SameFault s t ∧ SameInputs s t) ∧
    (FaultWhen s (.drw x y n) →
      ∃ t, exec (.drw x y n) s = .next t ∧ FaultEntered s t 3 (encode (.drw x y n)) s.i)

/-- The draw involution (44_display.md section on the blitter's laws, (a)): drawing the same sprite at the same position
twice restores every pixel. The second draw sets VF = 1 exactly when the first one set some pixel, so, where the
sprite's pixels were all clear before, exactly when the sprite has a 1 bit. Which bit of a sprite byte is which pixel is
decision D17 (log entry 18), when the draw faults D7 (log entry 16). (The law's flag clause as the spec writes it,
without that premise, contradicts Dxyn's own rule where the pixels were set before: log entry 11.) -/
def Obligations.DrawTwice : Prop :=
  ∀ (x y : Reg) (n : Count) (s : State), ¬ FaultWhen s (.drw x y n) →
    ∃ t, exec (.drw x y n) s = .next t ∧
      ∀ t' : State, t'.fb = t.fb → t'.i = s.i → SameMemory s t' → t'.reg x = s.reg x → t'.reg y = s.reg y →
        ∃ u, exec (.drw x y n) t' = .next u ∧ u.fb = s.fb ∧
          (u.reg VF = 1 ↔ ∃ px py, px < 64 ∧ py < 32 ∧ SpriteLit s x y n px py ∧ pixel s.fb px py = false) ∧
          ((∀ px py, px < 64 → py < 32 → SpriteLit s x y n px py → pixel s.fb px py = false) →
            (u.reg VF = 1 ↔
              ∃ r c : Nat, r < n.toNat ∧ c < 8 ∧ (s.readByte (s.i.toNat + r)).getLsbD (7 - c) = true))

/-- Clear, then draw (44_display.md section on the blitter's laws, (b)): the set pixels are exactly the sprite's 1 bits
where they land, and VF = 0 (the bit order is decision D17, log entry 18; when the draw faults D7, log entry 16). -/
def Obligations.ClearThenDraw : Prop :=
  ∀ (x y : Reg) (n : Count) (s : State), ¬ FaultWhen s (.drw x y n) →
    ∃ t u, exec .cls s = .next t ∧ exec (.drw x y n) t = .next u ∧ u.reg VF = 0 ∧
      ∀ px py, px < 64 → py < 32 → (pixel u.fb px py = true ↔ SpriteLit s x y n px py)

/-! ## Timers and keypad -/

/-- Ex9E skips when key V[x] is pressed and ExA1 when it is not, in this step's snapshot; neither changes anything else;
a key index above 0x0F takes KEY_OUT_OF_RANGE with info V[x] (45_timers_keypad.md; the fault is decision D15). -/
def Obligations.SkipKey : Prop :=
  ∀ (x : Reg) (s : State),
    ((s.reg x).toNat ≤ 0x0F →
      (∃ t, exec (.skp x) s = .next t ∧
        t.pc = (if s.keypad.getLsbD (s.reg x).toNat = true then s.pc + 4 else s.pc + 2) ∧
        SameRegs s t ∧ SameMemory s t ∧ SameIndex s t ∧ SameRest s t) ∧
      (∃ t, exec (.sknp x) s = .next t ∧
        t.pc = (if s.keypad.getLsbD (s.reg x).toNat = false then s.pc + 4 else s.pc + 2) ∧
        SameRegs s t ∧ SameMemory s t ∧ SameIndex s t ∧ SameRest s t)) ∧
    (0x0F < (s.reg x).toNat →
      (∃ t, exec (.skp x) s = .next t ∧ FaultEntered s t 4 (encode (.skp x)) ((s.reg x).setWidth 16)) ∧
      (∃ t, exec (.sknp x) s = .next t ∧ FaultEntered s t 4 (encode (.sknp x)) ((s.reg x).setWidth 16)))

/-- Fx07 copies DT to V[x], Fx15 copies V[x] to DT and Fx18 copies V[x] to ST, and nothing else changes but pc
(45_timers_keypad.md). -/
def Obligations.TimerMoves : Prop :=
  ∀ (x : Reg) (s : State),
    (∃ t, exec (.ldVxDt x) s = .next t ∧ t.reg x = s.dt ∧ OnlyRegs [x] s t) ∧
    (∃ t, exec (.ldDtVx x) s = .next t ∧ t.dt = s.reg x ∧ t.st = s.st ∧ t.pc = s.pc + 2 ∧ SameRegs s t ∧
      SameMemory s t ∧ SameIndex s t ∧ SameStack s t ∧ SameDisplay s t ∧ SameKeypad s t ∧ SameFault s t ∧
      SameInputs s t) ∧
    (∃ t, exec (.ldStVx x) s = .next t ∧ t.st = s.reg x ∧ t.dt = s.dt ∧ t.pc = s.pc + 2 ∧ SameRegs s t ∧
      SameMemory s t ∧ SameIndex s t ∧ SameStack s t ∧ SameDisplay s t ∧ SameKeypad s t ∧ SameFault s t ∧
      SameInputs s t)

/-- Fx0A sets the latch for register x and advances pc; it examines no key and writes no register (45_timers_keypad.md;
that pc advances is decision D25). -/
def Obligations.EnterWait : Prop :=
  ∀ (x : Reg) (s : State), ∃ t, exec (.ldVxK x) s = .next t ∧ t.waiting = true ∧ t.kreg = x ∧ t.keypad = s.keypad ∧
    t.pc = s.pc + 2 ∧ SameRegs s t ∧ SameMemory s t ∧ SameIndex s t ∧ SameTimers s t ∧ SameStack s t ∧
    SameDisplay s t ∧ SameFault s t ∧ SameInputs s t

/-! ## The host's side -/

/-- Before the first step after a reset, Load writes the whole request and nothing else when it fits, keeping memory
canonical, and otherwise fails and writes nothing; the byte port is the Load of one byte; after the first step no Load
is offered (20_memory.md section 6; all-or-nothing and "before the first step" are decision D22; the session that
remembers whether a step has run is the model's choice, log entry 9). -/
def Obligations.HostLoad : Prop :=
  ∀ (q : LoadRequest) (p : Session),
    (p.stepped = false → q.offset + q.bytes.length ≤ 4096 → ∃ t, p.act (.load q) = .next { core := t, stepped := false } ∧
      (∀ k, k < q.bytes.length → some (t.readByte (q.offset + k)) = q.bytes[k]?) ∧
      (∀ a, a < q.offset ∨ q.offset + q.bytes.length ≤ a → t.readByte a = p.core.readByte a) ∧
      t.pc = p.core.pc ∧ SameRegs p.core t ∧ SameIndex p.core t ∧ SameRest p.core t ∧ (p.core.MemOk → t.MemOk)) ∧
    (p.stepped = false → 4096 < q.offset + q.bytes.length → p.act (.load q) = .refused .loadOutOfBounds) ∧
    (p.stepped = true → p.act (.load q) = .refused .loadAfterFirstStep) ∧
    (p.stepped = false → ∀ (addr : Addr) (b : Byte), ∃ t, p.loadPort addr b = .next { core := t, stepped := false } ∧
      (∀ a, t.readByte a = if a = addr.toNat then b else p.core.readByte a)) ∧
    (p.stepped = true → ∀ (addr : Addr) (b : Byte), p.loadPort addr b = .refused .loadAfterFirstStep) ∧
    (∀ (inp : StepInput) (p' : Session), p.act (.request inp) = .next p' → p'.stepped = true) ∧
    p.act .reset = .next { core := p.core.assertReset, stepped := false }
end

