-- ==== Sys2Proof/Laws/State.lean ====
section
/-! SUPPORT. What each shared operation does to each field of State: one small lemma per field per operation, so that
later proofs never unfold a record update. -/

namespace Sys2Proof.Machine

/-! ### `State.setReg`: a register write -/

@[simp] theorem State.setReg_i (s : State) (r : Reg) (b : Byte) : (s.setReg r b).i = s.i := rfl
@[simp] theorem State.setReg_pc (s : State) (r : Reg) (b : Byte) : (s.setReg r b).pc = s.pc := rfl
@[simp] theorem State.setReg_stack (s : State) (r : Reg) (b : Byte) : (s.setReg r b).stack = s.stack := rfl
@[simp] theorem State.setReg_sp (s : State) (r : Reg) (b : Byte) : (s.setReg r b).sp = s.sp := rfl
@[simp] theorem State.setReg_dt (s : State) (r : Reg) (b : Byte) : (s.setReg r b).dt = s.dt := rfl
@[simp] theorem State.setReg_st (s : State) (r : Reg) (b : Byte) : (s.setReg r b).st = s.st := rfl
@[simp] theorem State.setReg_fb (s : State) (r : Reg) (b : Byte) : (s.setReg r b).fb = s.fb := rfl
@[simp] theorem State.setReg_changed (s : State) (r : Reg) (b : Byte) : (s.setReg r b).changed = s.changed := rfl
@[simp] theorem State.setReg_keypad (s : State) (r : Reg) (b : Byte) : (s.setReg r b).keypad = s.keypad := rfl
@[simp] theorem State.setReg_waiting (s : State) (r : Reg) (b : Byte) : (s.setReg r b).waiting = s.waiting := rfl
@[simp] theorem State.setReg_kreg (s : State) (r : Reg) (b : Byte) : (s.setReg r b).kreg = s.kreg := rfl
@[simp] theorem State.setReg_mem (s : State) (r : Reg) (b : Byte) : (s.setReg r b).mem = s.mem := rfl
@[simp] theorem State.setReg_halted (s : State) (r : Reg) (b : Byte) : (s.setReg r b).halted = s.halted := rfl
@[simp] theorem State.setReg_faultCode (s : State) (r : Reg) (b : Byte) : (s.setReg r b).faultCode = s.faultCode := rfl
@[simp] theorem State.setReg_faultPc (s : State) (r : Reg) (b : Byte) : (s.setReg r b).faultPc = s.faultPc := rfl
@[simp] theorem State.setReg_faultOpcode (s : State) (r : Reg) (b : Byte) : (s.setReg r b).faultOpcode = s.faultOpcode := rfl
@[simp] theorem State.setReg_faultInfo (s : State) (r : Reg) (b : Byte) : (s.setReg r b).faultInfo = s.faultInfo := rfl
@[simp] theorem State.setReg_rnd (s : State) (r : Reg) (b : Byte) : (s.setReg r b).rnd = s.rnd := rfl
@[simp] theorem State.setReg_inputs (s : State) (r : Reg) (b : Byte) : (s.setReg r b).inputs = s.inputs := rfl
@[simp] theorem State.setReg_inputIndex (s : State) (r : Reg) (b : Byte) : (s.setReg r b).inputIndex = s.inputIndex := rfl
@[simp] theorem State.setReg_params (s : State) (r : Reg) (b : Byte) : (s.setReg r b).params = s.params := rfl

/-! ### `State.writeByte`: a byte store -/

@[simp] theorem State.writeByte_v (s : State) (a : Nat) (b : Byte) : (s.writeByte a b).v = s.v := rfl
@[simp] theorem State.writeByte_i (s : State) (a : Nat) (b : Byte) : (s.writeByte a b).i = s.i := rfl
@[simp] theorem State.writeByte_pc (s : State) (a : Nat) (b : Byte) : (s.writeByte a b).pc = s.pc := rfl
@[simp] theorem State.writeByte_stack (s : State) (a : Nat) (b : Byte) : (s.writeByte a b).stack = s.stack := rfl
@[simp] theorem State.writeByte_sp (s : State) (a : Nat) (b : Byte) : (s.writeByte a b).sp = s.sp := rfl
@[simp] theorem State.writeByte_dt (s : State) (a : Nat) (b : Byte) : (s.writeByte a b).dt = s.dt := rfl
@[simp] theorem State.writeByte_st (s : State) (a : Nat) (b : Byte) : (s.writeByte a b).st = s.st := rfl
@[simp] theorem State.writeByte_fb (s : State) (a : Nat) (b : Byte) : (s.writeByte a b).fb = s.fb := rfl
@[simp] theorem State.writeByte_changed (s : State) (a : Nat) (b : Byte) : (s.writeByte a b).changed = s.changed := rfl
@[simp] theorem State.writeByte_keypad (s : State) (a : Nat) (b : Byte) : (s.writeByte a b).keypad = s.keypad := rfl
@[simp] theorem State.writeByte_waiting (s : State) (a : Nat) (b : Byte) : (s.writeByte a b).waiting = s.waiting := rfl
@[simp] theorem State.writeByte_kreg (s : State) (a : Nat) (b : Byte) : (s.writeByte a b).kreg = s.kreg := rfl
@[simp] theorem State.writeByte_halted (s : State) (a : Nat) (b : Byte) : (s.writeByte a b).halted = s.halted := rfl
@[simp] theorem State.writeByte_faultCode (s : State) (a : Nat) (b : Byte) : (s.writeByte a b).faultCode = s.faultCode := rfl
@[simp] theorem State.writeByte_faultPc (s : State) (a : Nat) (b : Byte) : (s.writeByte a b).faultPc = s.faultPc := rfl
@[simp] theorem State.writeByte_faultOpcode (s : State) (a : Nat) (b : Byte) : (s.writeByte a b).faultOpcode = s.faultOpcode := rfl
@[simp] theorem State.writeByte_faultInfo (s : State) (a : Nat) (b : Byte) : (s.writeByte a b).faultInfo = s.faultInfo := rfl
@[simp] theorem State.writeByte_rnd (s : State) (a : Nat) (b : Byte) : (s.writeByte a b).rnd = s.rnd := rfl
@[simp] theorem State.writeByte_inputs (s : State) (a : Nat) (b : Byte) : (s.writeByte a b).inputs = s.inputs := rfl
@[simp] theorem State.writeByte_inputIndex (s : State) (a : Nat) (b : Byte) : (s.writeByte a b).inputIndex = s.inputIndex := rfl
@[simp] theorem State.writeByte_params (s : State) (a : Nat) (b : Byte) : (s.writeByte a b).params = s.params := rfl

/-! ### `State.advance`: transition NEXT -/

@[simp] theorem State.advance_v (s : State) : (s.advance).v = s.v := rfl
@[simp] theorem State.advance_i (s : State) : (s.advance).i = s.i := rfl
@[simp] theorem State.advance_pc (s : State) : (s.advance).pc = s.pc + 2 := rfl
@[simp] theorem State.advance_stack (s : State) : (s.advance).stack = s.stack := rfl
@[simp] theorem State.advance_sp (s : State) : (s.advance).sp = s.sp := rfl
@[simp] theorem State.advance_dt (s : State) : (s.advance).dt = s.dt := rfl
@[simp] theorem State.advance_st (s : State) : (s.advance).st = s.st := rfl
@[simp] theorem State.advance_fb (s : State) : (s.advance).fb = s.fb := rfl
@[simp] theorem State.advance_changed (s : State) : (s.advance).changed = s.changed := rfl
@[simp] theorem State.advance_keypad (s : State) : (s.advance).keypad = s.keypad := rfl
@[simp] theorem State.advance_waiting (s : State) : (s.advance).waiting = s.waiting := rfl
@[simp] theorem State.advance_kreg (s : State) : (s.advance).kreg = s.kreg := rfl
@[simp] theorem State.advance_mem (s : State) : (s.advance).mem = s.mem := rfl
@[simp] theorem State.advance_halted (s : State) : (s.advance).halted = s.halted := rfl
@[simp] theorem State.advance_faultCode (s : State) : (s.advance).faultCode = s.faultCode := rfl
@[simp] theorem State.advance_faultPc (s : State) : (s.advance).faultPc = s.faultPc := rfl
@[simp] theorem State.advance_faultOpcode (s : State) : (s.advance).faultOpcode = s.faultOpcode := rfl
@[simp] theorem State.advance_faultInfo (s : State) : (s.advance).faultInfo = s.faultInfo := rfl
@[simp] theorem State.advance_rnd (s : State) : (s.advance).rnd = s.rnd := rfl
@[simp] theorem State.advance_inputs (s : State) : (s.advance).inputs = s.inputs := rfl
@[simp] theorem State.advance_inputIndex (s : State) : (s.advance).inputIndex = s.inputIndex := rfl
@[simp] theorem State.advance_params (s : State) : (s.advance).params = s.params := rfl

/-! ### `State.skipWhen`: a conditional skip -/

@[simp] theorem State.skipWhen_v (s : State) (c : Bool) : (s.skipWhen c).v = s.v := rfl
@[simp] theorem State.skipWhen_i (s : State) (c : Bool) : (s.skipWhen c).i = s.i := rfl
@[simp] theorem State.skipWhen_pc (s : State) (c : Bool) : (s.skipWhen c).pc = s.pc + (if c then 4 else 2) := rfl
@[simp] theorem State.skipWhen_stack (s : State) (c : Bool) : (s.skipWhen c).stack = s.stack := rfl
@[simp] theorem State.skipWhen_sp (s : State) (c : Bool) : (s.skipWhen c).sp = s.sp := rfl
@[simp] theorem State.skipWhen_dt (s : State) (c : Bool) : (s.skipWhen c).dt = s.dt := rfl
@[simp] theorem State.skipWhen_st (s : State) (c : Bool) : (s.skipWhen c).st = s.st := rfl
@[simp] theorem State.skipWhen_fb (s : State) (c : Bool) : (s.skipWhen c).fb = s.fb := rfl
@[simp] theorem State.skipWhen_changed (s : State) (c : Bool) : (s.skipWhen c).changed = s.changed := rfl
@[simp] theorem State.skipWhen_keypad (s : State) (c : Bool) : (s.skipWhen c).keypad = s.keypad := rfl
@[simp] theorem State.skipWhen_waiting (s : State) (c : Bool) : (s.skipWhen c).waiting = s.waiting := rfl
@[simp] theorem State.skipWhen_kreg (s : State) (c : Bool) : (s.skipWhen c).kreg = s.kreg := rfl
@[simp] theorem State.skipWhen_mem (s : State) (c : Bool) : (s.skipWhen c).mem = s.mem := rfl
@[simp] theorem State.skipWhen_halted (s : State) (c : Bool) : (s.skipWhen c).halted = s.halted := rfl
@[simp] theorem State.skipWhen_faultCode (s : State) (c : Bool) : (s.skipWhen c).faultCode = s.faultCode := rfl
@[simp] theorem State.skipWhen_faultPc (s : State) (c : Bool) : (s.skipWhen c).faultPc = s.faultPc := rfl
@[simp] theorem State.skipWhen_faultOpcode (s : State) (c : Bool) : (s.skipWhen c).faultOpcode = s.faultOpcode := rfl
@[simp] theorem State.skipWhen_faultInfo (s : State) (c : Bool) : (s.skipWhen c).faultInfo = s.faultInfo := rfl
@[simp] theorem State.skipWhen_rnd (s : State) (c : Bool) : (s.skipWhen c).rnd = s.rnd := rfl
@[simp] theorem State.skipWhen_inputs (s : State) (c : Bool) : (s.skipWhen c).inputs = s.inputs := rfl
@[simp] theorem State.skipWhen_inputIndex (s : State) (c : Bool) : (s.skipWhen c).inputIndex = s.inputIndex := rfl
@[simp] theorem State.skipWhen_params (s : State) (c : Bool) : (s.skipWhen c).params = s.params := rfl

/-! ### `State.jump`: transition JUMP -/

@[simp] theorem State.jump_v (s : State) (a : Word) : (s.jump a).v = s.v := rfl
@[simp] theorem State.jump_i (s : State) (a : Word) : (s.jump a).i = s.i := rfl
@[simp] theorem State.jump_pc (s : State) (a : Word) : (s.jump a).pc = a := rfl
@[simp] theorem State.jump_stack (s : State) (a : Word) : (s.jump a).stack = s.stack := rfl
@[simp] theorem State.jump_sp (s : State) (a : Word) : (s.jump a).sp = s.sp := rfl
@[simp] theorem State.jump_dt (s : State) (a : Word) : (s.jump a).dt = s.dt := rfl
@[simp] theorem State.jump_st (s : State) (a : Word) : (s.jump a).st = s.st := rfl
@[simp] theorem State.jump_fb (s : State) (a : Word) : (s.jump a).fb = s.fb := rfl
@[simp] theorem State.jump_changed (s : State) (a : Word) : (s.jump a).changed = s.changed := rfl
@[simp] theorem State.jump_keypad (s : State) (a : Word) : (s.jump a).keypad = s.keypad := rfl
@[simp] theorem State.jump_waiting (s : State) (a : Word) : (s.jump a).waiting = s.waiting := rfl
@[simp] theorem State.jump_kreg (s : State) (a : Word) : (s.jump a).kreg = s.kreg := rfl
@[simp] theorem State.jump_mem (s : State) (a : Word) : (s.jump a).mem = s.mem := rfl
@[simp] theorem State.jump_halted (s : State) (a : Word) : (s.jump a).halted = s.halted := rfl
@[simp] theorem State.jump_faultCode (s : State) (a : Word) : (s.jump a).faultCode = s.faultCode := rfl
@[simp] theorem State.jump_faultPc (s : State) (a : Word) : (s.jump a).faultPc = s.faultPc := rfl
@[simp] theorem State.jump_faultOpcode (s : State) (a : Word) : (s.jump a).faultOpcode = s.faultOpcode := rfl
@[simp] theorem State.jump_faultInfo (s : State) (a : Word) : (s.jump a).faultInfo = s.faultInfo := rfl
@[simp] theorem State.jump_rnd (s : State) (a : Word) : (s.jump a).rnd = s.rnd := rfl
@[simp] theorem State.jump_inputs (s : State) (a : Word) : (s.jump a).inputs = s.inputs := rfl
@[simp] theorem State.jump_inputIndex (s : State) (a : Word) : (s.jump a).inputIndex = s.inputIndex := rfl
@[simp] theorem State.jump_params (s : State) (a : Word) : (s.jump a).params = s.params := rfl

/-! ### `State.pop`: a pop -/

@[simp] theorem State.pop_v (s : State) : (s.pop).v = s.v := rfl
@[simp] theorem State.pop_i (s : State) : (s.pop).i = s.i := rfl
@[simp] theorem State.pop_pc (s : State) : (s.pop).pc = s.pc := rfl
@[simp] theorem State.pop_stack (s : State) : (s.pop).stack = s.stack := rfl
@[simp] theorem State.pop_dt (s : State) : (s.pop).dt = s.dt := rfl
@[simp] theorem State.pop_st (s : State) : (s.pop).st = s.st := rfl
@[simp] theorem State.pop_fb (s : State) : (s.pop).fb = s.fb := rfl
@[simp] theorem State.pop_changed (s : State) : (s.pop).changed = s.changed := rfl
@[simp] theorem State.pop_keypad (s : State) : (s.pop).keypad = s.keypad := rfl
@[simp] theorem State.pop_waiting (s : State) : (s.pop).waiting = s.waiting := rfl
@[simp] theorem State.pop_kreg (s : State) : (s.pop).kreg = s.kreg := rfl
@[simp] theorem State.pop_mem (s : State) : (s.pop).mem = s.mem := rfl
@[simp] theorem State.pop_halted (s : State) : (s.pop).halted = s.halted := rfl
@[simp] theorem State.pop_faultCode (s : State) : (s.pop).faultCode = s.faultCode := rfl
@[simp] theorem State.pop_faultPc (s : State) : (s.pop).faultPc = s.faultPc := rfl
@[simp] theorem State.pop_faultOpcode (s : State) : (s.pop).faultOpcode = s.faultOpcode := rfl
@[simp] theorem State.pop_faultInfo (s : State) : (s.pop).faultInfo = s.faultInfo := rfl
@[simp] theorem State.pop_rnd (s : State) : (s.pop).rnd = s.rnd := rfl
@[simp] theorem State.pop_inputs (s : State) : (s.pop).inputs = s.inputs := rfl
@[simp] theorem State.pop_inputIndex (s : State) : (s.pop).inputIndex = s.inputIndex := rfl
@[simp] theorem State.pop_params (s : State) : (s.pop).params = s.params := rfl

/-! ### `State.enterFault`: fault entry -/

@[simp] theorem State.enterFault_v (s : State) (c : Fault) (info op : Word) : (s.enterFault c info op).v = s.v := rfl
@[simp] theorem State.enterFault_i (s : State) (c : Fault) (info op : Word) : (s.enterFault c info op).i = s.i := rfl
@[simp] theorem State.enterFault_pc (s : State) (c : Fault) (info op : Word) : (s.enterFault c info op).pc = s.pc := rfl
@[simp] theorem State.enterFault_stack (s : State) (c : Fault) (info op : Word) : (s.enterFault c info op).stack = s.stack := rfl
@[simp] theorem State.enterFault_sp (s : State) (c : Fault) (info op : Word) : (s.enterFault c info op).sp = s.sp := rfl
@[simp] theorem State.enterFault_dt (s : State) (c : Fault) (info op : Word) : (s.enterFault c info op).dt = s.dt := rfl
@[simp] theorem State.enterFault_st (s : State) (c : Fault) (info op : Word) : (s.enterFault c info op).st = s.st := rfl
@[simp] theorem State.enterFault_fb (s : State) (c : Fault) (info op : Word) : (s.enterFault c info op).fb = s.fb := rfl
@[simp] theorem State.enterFault_changed (s : State) (c : Fault) (info op : Word) : (s.enterFault c info op).changed = s.changed := rfl
@[simp] theorem State.enterFault_keypad (s : State) (c : Fault) (info op : Word) : (s.enterFault c info op).keypad = s.keypad := rfl
@[simp] theorem State.enterFault_waiting (s : State) (c : Fault) (info op : Word) : (s.enterFault c info op).waiting = s.waiting := rfl
@[simp] theorem State.enterFault_kreg (s : State) (c : Fault) (info op : Word) : (s.enterFault c info op).kreg = s.kreg := rfl
@[simp] theorem State.enterFault_mem (s : State) (c : Fault) (info op : Word) : (s.enterFault c info op).mem = s.mem := rfl
@[simp] theorem State.enterFault_halted (s : State) (c : Fault) (info op : Word) : (s.enterFault c info op).halted = true := rfl
@[simp] theorem State.enterFault_faultCode (s : State) (c : Fault) (info op : Word) : (s.enterFault c info op).faultCode = c.code := rfl
@[simp] theorem State.enterFault_faultPc (s : State) (c : Fault) (info op : Word) : (s.enterFault c info op).faultPc = s.pc := rfl
@[simp] theorem State.enterFault_faultOpcode (s : State) (c : Fault) (info op : Word) : (s.enterFault c info op).faultOpcode = op := rfl
@[simp] theorem State.enterFault_faultInfo (s : State) (c : Fault) (info op : Word) : (s.enterFault c info op).faultInfo = info := rfl
@[simp] theorem State.enterFault_rnd (s : State) (c : Fault) (info op : Word) : (s.enterFault c info op).rnd = s.rnd := rfl
@[simp] theorem State.enterFault_inputs (s : State) (c : Fault) (info op : Word) : (s.enterFault c info op).inputs = s.inputs := rfl
@[simp] theorem State.enterFault_inputIndex (s : State) (c : Fault) (info op : Word) : (s.enterFault c info op).inputIndex = s.inputIndex := rfl
@[simp] theorem State.enterFault_params (s : State) (c : Fault) (info op : Word) : (s.enterFault c info op).params = s.params := rfl

/-! ### `State.raise`: an instruction's fault -/

@[simp] theorem State.raise_v (s : State) (c : Fault) (info : Word) (j : Instr) : (s.raise c info j).v = s.v := rfl
@[simp] theorem State.raise_i (s : State) (c : Fault) (info : Word) (j : Instr) : (s.raise c info j).i = s.i := rfl
@[simp] theorem State.raise_pc (s : State) (c : Fault) (info : Word) (j : Instr) : (s.raise c info j).pc = s.pc := rfl
@[simp] theorem State.raise_stack (s : State) (c : Fault) (info : Word) (j : Instr) : (s.raise c info j).stack = s.stack := rfl
@[simp] theorem State.raise_sp (s : State) (c : Fault) (info : Word) (j : Instr) : (s.raise c info j).sp = s.sp := rfl
@[simp] theorem State.raise_dt (s : State) (c : Fault) (info : Word) (j : Instr) : (s.raise c info j).dt = s.dt := rfl
@[simp] theorem State.raise_st (s : State) (c : Fault) (info : Word) (j : Instr) : (s.raise c info j).st = s.st := rfl
@[simp] theorem State.raise_fb (s : State) (c : Fault) (info : Word) (j : Instr) : (s.raise c info j).fb = s.fb := rfl
@[simp] theorem State.raise_changed (s : State) (c : Fault) (info : Word) (j : Instr) : (s.raise c info j).changed = s.changed := rfl
@[simp] theorem State.raise_keypad (s : State) (c : Fault) (info : Word) (j : Instr) : (s.raise c info j).keypad = s.keypad := rfl
@[simp] theorem State.raise_waiting (s : State) (c : Fault) (info : Word) (j : Instr) : (s.raise c info j).waiting = s.waiting := rfl
@[simp] theorem State.raise_kreg (s : State) (c : Fault) (info : Word) (j : Instr) : (s.raise c info j).kreg = s.kreg := rfl
@[simp] theorem State.raise_mem (s : State) (c : Fault) (info : Word) (j : Instr) : (s.raise c info j).mem = s.mem := rfl
@[simp] theorem State.raise_halted (s : State) (c : Fault) (info : Word) (j : Instr) : (s.raise c info j).halted = true := rfl
@[simp] theorem State.raise_faultCode (s : State) (c : Fault) (info : Word) (j : Instr) : (s.raise c info j).faultCode = c.code := rfl
@[simp] theorem State.raise_faultPc (s : State) (c : Fault) (info : Word) (j : Instr) : (s.raise c info j).faultPc = s.pc := rfl
@[simp] theorem State.raise_faultOpcode (s : State) (c : Fault) (info : Word) (j : Instr) : (s.raise c info j).faultOpcode = encode j := rfl
@[simp] theorem State.raise_faultInfo (s : State) (c : Fault) (info : Word) (j : Instr) : (s.raise c info j).faultInfo = info := rfl
@[simp] theorem State.raise_rnd (s : State) (c : Fault) (info : Word) (j : Instr) : (s.raise c info j).rnd = s.rnd := rfl
@[simp] theorem State.raise_inputs (s : State) (c : Fault) (info : Word) (j : Instr) : (s.raise c info j).inputs = s.inputs := rfl
@[simp] theorem State.raise_inputIndex (s : State) (c : Fault) (info : Word) (j : Instr) : (s.raise c info j).inputIndex = s.inputIndex := rfl
@[simp] theorem State.raise_params (s : State) (c : Fault) (info : Word) (j : Instr) : (s.raise c info j).params = s.params := rfl

/-! ### `State.sample`: phase 1 -/

@[simp] theorem State.sample_v (s : State) : (s.sample).v = s.v := rfl
@[simp] theorem State.sample_i (s : State) : (s.sample).i = s.i := rfl
@[simp] theorem State.sample_pc (s : State) : (s.sample).pc = s.pc := rfl
@[simp] theorem State.sample_stack (s : State) : (s.sample).stack = s.stack := rfl
@[simp] theorem State.sample_sp (s : State) : (s.sample).sp = s.sp := rfl
@[simp] theorem State.sample_dt (s : State) : (s.sample).dt = s.dt := rfl
@[simp] theorem State.sample_st (s : State) : (s.sample).st = s.st := rfl
@[simp] theorem State.sample_fb (s : State) : (s.sample).fb = s.fb := rfl
@[simp] theorem State.sample_changed (s : State) : (s.sample).changed = false := rfl
@[simp] theorem State.sample_keypad (s : State) : (s.sample).keypad = s.nextInput.keys := rfl
@[simp] theorem State.sample_waiting (s : State) : (s.sample).waiting = s.waiting := rfl
@[simp] theorem State.sample_kreg (s : State) : (s.sample).kreg = s.kreg := rfl
@[simp] theorem State.sample_mem (s : State) : (s.sample).mem = s.mem := rfl
@[simp] theorem State.sample_halted (s : State) : (s.sample).halted = s.halted := rfl
@[simp] theorem State.sample_faultCode (s : State) : (s.sample).faultCode = s.faultCode := rfl
@[simp] theorem State.sample_faultPc (s : State) : (s.sample).faultPc = s.faultPc := rfl
@[simp] theorem State.sample_faultOpcode (s : State) : (s.sample).faultOpcode = s.faultOpcode := rfl
@[simp] theorem State.sample_faultInfo (s : State) : (s.sample).faultInfo = s.faultInfo := rfl
@[simp] theorem State.sample_rnd (s : State) : (s.sample).rnd = s.nextInput.rnd := rfl
@[simp] theorem State.sample_inputs (s : State) : (s.sample).inputs = s.inputs.tail := rfl
@[simp] theorem State.sample_inputIndex (s : State) : (s.sample).inputIndex = s.inputIndex + 1 := rfl
@[simp] theorem State.sample_params (s : State) : (s.sample).params = s.params := rfl

/-! ### `State.countdown`: phase 3a -/

@[simp] theorem State.countdown_v (s : State) : (s.countdown).v = s.v := rfl
@[simp] theorem State.countdown_i (s : State) : (s.countdown).i = s.i := rfl
@[simp] theorem State.countdown_pc (s : State) : (s.countdown).pc = s.pc := rfl
@[simp] theorem State.countdown_stack (s : State) : (s.countdown).stack = s.stack := rfl
@[simp] theorem State.countdown_sp (s : State) : (s.countdown).sp = s.sp := rfl
@[simp] theorem State.countdown_dt (s : State) : (s.countdown).dt = tick s.dt := rfl
@[simp] theorem State.countdown_st (s : State) : (s.countdown).st = tick s.st := rfl
@[simp] theorem State.countdown_fb (s : State) : (s.countdown).fb = s.fb := rfl
@[simp] theorem State.countdown_changed (s : State) : (s.countdown).changed = s.changed := rfl
@[simp] theorem State.countdown_keypad (s : State) : (s.countdown).keypad = s.keypad := rfl
@[simp] theorem State.countdown_waiting (s : State) : (s.countdown).waiting = s.waiting := rfl
@[simp] theorem State.countdown_kreg (s : State) : (s.countdown).kreg = s.kreg := rfl
@[simp] theorem State.countdown_mem (s : State) : (s.countdown).mem = s.mem := rfl
@[simp] theorem State.countdown_halted (s : State) : (s.countdown).halted = s.halted := rfl
@[simp] theorem State.countdown_faultCode (s : State) : (s.countdown).faultCode = s.faultCode := rfl
@[simp] theorem State.countdown_faultPc (s : State) : (s.countdown).faultPc = s.faultPc := rfl
@[simp] theorem State.countdown_faultOpcode (s : State) : (s.countdown).faultOpcode = s.faultOpcode := rfl
@[simp] theorem State.countdown_faultInfo (s : State) : (s.countdown).faultInfo = s.faultInfo := rfl
@[simp] theorem State.countdown_rnd (s : State) : (s.countdown).rnd = s.rnd := rfl
@[simp] theorem State.countdown_inputs (s : State) : (s.countdown).inputs = s.inputs := rfl
@[simp] theorem State.countdown_inputIndex (s : State) : (s.countdown).inputIndex = s.inputIndex := rfl
@[simp] theorem State.countdown_params (s : State) : (s.countdown).params = s.params := rfl

/-! ### `State.setFlag`: a flag write -/

@[simp] theorem State.setFlag_i (s : State) (f : Bool) : (s.setFlag f).i = s.i := rfl
@[simp] theorem State.setFlag_pc (s : State) (f : Bool) : (s.setFlag f).pc = s.pc := rfl
@[simp] theorem State.setFlag_stack (s : State) (f : Bool) : (s.setFlag f).stack = s.stack := rfl
@[simp] theorem State.setFlag_sp (s : State) (f : Bool) : (s.setFlag f).sp = s.sp := rfl
@[simp] theorem State.setFlag_dt (s : State) (f : Bool) : (s.setFlag f).dt = s.dt := rfl
@[simp] theorem State.setFlag_st (s : State) (f : Bool) : (s.setFlag f).st = s.st := rfl
@[simp] theorem State.setFlag_fb (s : State) (f : Bool) : (s.setFlag f).fb = s.fb := rfl
@[simp] theorem State.setFlag_changed (s : State) (f : Bool) : (s.setFlag f).changed = s.changed := rfl
@[simp] theorem State.setFlag_keypad (s : State) (f : Bool) : (s.setFlag f).keypad = s.keypad := rfl
@[simp] theorem State.setFlag_waiting (s : State) (f : Bool) : (s.setFlag f).waiting = s.waiting := rfl
@[simp] theorem State.setFlag_kreg (s : State) (f : Bool) : (s.setFlag f).kreg = s.kreg := rfl
@[simp] theorem State.setFlag_mem (s : State) (f : Bool) : (s.setFlag f).mem = s.mem := rfl
@[simp] theorem State.setFlag_halted (s : State) (f : Bool) : (s.setFlag f).halted = s.halted := rfl
@[simp] theorem State.setFlag_faultCode (s : State) (f : Bool) : (s.setFlag f).faultCode = s.faultCode := rfl
@[simp] theorem State.setFlag_faultPc (s : State) (f : Bool) : (s.setFlag f).faultPc = s.faultPc := rfl
@[simp] theorem State.setFlag_faultOpcode (s : State) (f : Bool) : (s.setFlag f).faultOpcode = s.faultOpcode := rfl
@[simp] theorem State.setFlag_faultInfo (s : State) (f : Bool) : (s.setFlag f).faultInfo = s.faultInfo := rfl
@[simp] theorem State.setFlag_rnd (s : State) (f : Bool) : (s.setFlag f).rnd = s.rnd := rfl
@[simp] theorem State.setFlag_inputs (s : State) (f : Bool) : (s.setFlag f).inputs = s.inputs := rfl
@[simp] theorem State.setFlag_inputIndex (s : State) (f : Bool) : (s.setFlag f).inputIndex = s.inputIndex := rfl
@[simp] theorem State.setFlag_params (s : State) (f : Bool) : (s.setFlag f).params = s.params := rfl

/-! ### `State.setResultFlag`: a result and flag write -/

@[simp] theorem State.setResultFlag_i (s : State) (r : Reg) (b : Byte) (f : Bool) : (s.setResultFlag r b f).i = s.i := rfl
@[simp] theorem State.setResultFlag_pc (s : State) (r : Reg) (b : Byte) (f : Bool) : (s.setResultFlag r b f).pc = s.pc := rfl
@[simp] theorem State.setResultFlag_stack (s : State) (r : Reg) (b : Byte) (f : Bool) : (s.setResultFlag r b f).stack = s.stack := rfl
@[simp] theorem State.setResultFlag_sp (s : State) (r : Reg) (b : Byte) (f : Bool) : (s.setResultFlag r b f).sp = s.sp := rfl
@[simp] theorem State.setResultFlag_dt (s : State) (r : Reg) (b : Byte) (f : Bool) : (s.setResultFlag r b f).dt = s.dt := rfl
@[simp] theorem State.setResultFlag_st (s : State) (r : Reg) (b : Byte) (f : Bool) : (s.setResultFlag r b f).st = s.st := rfl
@[simp] theorem State.setResultFlag_fb (s : State) (r : Reg) (b : Byte) (f : Bool) : (s.setResultFlag r b f).fb = s.fb := rfl
@[simp] theorem State.setResultFlag_changed (s : State) (r : Reg) (b : Byte) (f : Bool) : (s.setResultFlag r b f).changed = s.changed := rfl
@[simp] theorem State.setResultFlag_keypad (s : State) (r : Reg) (b : Byte) (f : Bool) : (s.setResultFlag r b f).keypad = s.keypad := rfl
@[simp] theorem State.setResultFlag_waiting (s : State) (r : Reg) (b : Byte) (f : Bool) : (s.setResultFlag r b f).waiting = s.waiting := rfl
@[simp] theorem State.setResultFlag_kreg (s : State) (r : Reg) (b : Byte) (f : Bool) : (s.setResultFlag r b f).kreg = s.kreg := rfl
@[simp] theorem State.setResultFlag_mem (s : State) (r : Reg) (b : Byte) (f : Bool) : (s.setResultFlag r b f).mem = s.mem := rfl
@[simp] theorem State.setResultFlag_halted (s : State) (r : Reg) (b : Byte) (f : Bool) : (s.setResultFlag r b f).halted = s.halted := rfl
@[simp] theorem State.setResultFlag_faultCode (s : State) (r : Reg) (b : Byte) (f : Bool) : (s.setResultFlag r b f).faultCode = s.faultCode := rfl
@[simp] theorem State.setResultFlag_faultPc (s : State) (r : Reg) (b : Byte) (f : Bool) : (s.setResultFlag r b f).faultPc = s.faultPc := rfl
@[simp] theorem State.setResultFlag_faultOpcode (s : State) (r : Reg) (b : Byte) (f : Bool) : (s.setResultFlag r b f).faultOpcode = s.faultOpcode := rfl
@[simp] theorem State.setResultFlag_faultInfo (s : State) (r : Reg) (b : Byte) (f : Bool) : (s.setResultFlag r b f).faultInfo = s.faultInfo := rfl
@[simp] theorem State.setResultFlag_rnd (s : State) (r : Reg) (b : Byte) (f : Bool) : (s.setResultFlag r b f).rnd = s.rnd := rfl
@[simp] theorem State.setResultFlag_inputs (s : State) (r : Reg) (b : Byte) (f : Bool) : (s.setResultFlag r b f).inputs = s.inputs := rfl
@[simp] theorem State.setResultFlag_inputIndex (s : State) (r : Reg) (b : Byte) (f : Bool) : (s.setResultFlag r b f).inputIndex = s.inputIndex := rfl
@[simp] theorem State.setResultFlag_params (s : State) (r : Reg) (b : Byte) (f : Bool) : (s.setResultFlag r b f).params = s.params := rfl

/-! ### `State.present`: storing a drawing -/

@[simp] theorem State.present_i (s : State) (d : Drawing) : (s.present d).i = s.i := rfl
@[simp] theorem State.present_pc (s : State) (d : Drawing) : (s.present d).pc = s.pc := rfl
@[simp] theorem State.present_stack (s : State) (d : Drawing) : (s.present d).stack = s.stack := rfl
@[simp] theorem State.present_sp (s : State) (d : Drawing) : (s.present d).sp = s.sp := rfl
@[simp] theorem State.present_dt (s : State) (d : Drawing) : (s.present d).dt = s.dt := rfl
@[simp] theorem State.present_st (s : State) (d : Drawing) : (s.present d).st = s.st := rfl
@[simp] theorem State.present_fb (s : State) (d : Drawing) : (s.present d).fb = d.fb := rfl
@[simp] theorem State.present_changed (s : State) (d : Drawing) : (s.present d).changed = true := rfl
@[simp] theorem State.present_keypad (s : State) (d : Drawing) : (s.present d).keypad = s.keypad := rfl
@[simp] theorem State.present_waiting (s : State) (d : Drawing) : (s.present d).waiting = s.waiting := rfl
@[simp] theorem State.present_kreg (s : State) (d : Drawing) : (s.present d).kreg = s.kreg := rfl
@[simp] theorem State.present_mem (s : State) (d : Drawing) : (s.present d).mem = s.mem := rfl
@[simp] theorem State.present_halted (s : State) (d : Drawing) : (s.present d).halted = s.halted := rfl
@[simp] theorem State.present_faultCode (s : State) (d : Drawing) : (s.present d).faultCode = s.faultCode := rfl
@[simp] theorem State.present_faultPc (s : State) (d : Drawing) : (s.present d).faultPc = s.faultPc := rfl
@[simp] theorem State.present_faultOpcode (s : State) (d : Drawing) : (s.present d).faultOpcode = s.faultOpcode := rfl
@[simp] theorem State.present_faultInfo (s : State) (d : Drawing) : (s.present d).faultInfo = s.faultInfo := rfl
@[simp] theorem State.present_rnd (s : State) (d : Drawing) : (s.present d).rnd = s.rnd := rfl
@[simp] theorem State.present_inputs (s : State) (d : Drawing) : (s.present d).inputs = s.inputs := rfl
@[simp] theorem State.present_inputIndex (s : State) (d : Drawing) : (s.present d).inputIndex = s.inputIndex := rfl
@[simp] theorem State.present_params (s : State) (d : Drawing) : (s.present d).params = s.params := rfl

/-! ### `State.push` -/

@[simp] theorem State.push_v (s : State) (a : Word) : (s.push a).v = s.v := by
  unfold State.push; split <;> rfl
@[simp] theorem State.push_i (s : State) (a : Word) : (s.push a).i = s.i := by
  unfold State.push; split <;> rfl
@[simp] theorem State.push_pc (s : State) (a : Word) : (s.push a).pc = s.pc := by
  unfold State.push; split <;> rfl
@[simp] theorem State.push_dt (s : State) (a : Word) : (s.push a).dt = s.dt := by
  unfold State.push; split <;> rfl
@[simp] theorem State.push_st (s : State) (a : Word) : (s.push a).st = s.st := by
  unfold State.push; split <;> rfl
@[simp] theorem State.push_fb (s : State) (a : Word) : (s.push a).fb = s.fb := by
  unfold State.push; split <;> rfl
@[simp] theorem State.push_changed (s : State) (a : Word) : (s.push a).changed = s.changed := by
  unfold State.push; split <;> rfl
@[simp] theorem State.push_keypad (s : State) (a : Word) : (s.push a).keypad = s.keypad := by
  unfold State.push; split <;> rfl
@[simp] theorem State.push_waiting (s : State) (a : Word) : (s.push a).waiting = s.waiting := by
  unfold State.push; split <;> rfl
@[simp] theorem State.push_kreg (s : State) (a : Word) : (s.push a).kreg = s.kreg := by
  unfold State.push; split <;> rfl
@[simp] theorem State.push_mem (s : State) (a : Word) : (s.push a).mem = s.mem := by
  unfold State.push; split <;> rfl
@[simp] theorem State.push_halted (s : State) (a : Word) : (s.push a).halted = s.halted := by
  unfold State.push; split <;> rfl
@[simp] theorem State.push_faultCode (s : State) (a : Word) : (s.push a).faultCode = s.faultCode := by
  unfold State.push; split <;> rfl
@[simp] theorem State.push_faultPc (s : State) (a : Word) : (s.push a).faultPc = s.faultPc := by
  unfold State.push; split <;> rfl
@[simp] theorem State.push_faultOpcode (s : State) (a : Word) : (s.push a).faultOpcode = s.faultOpcode := by
  unfold State.push; split <;> rfl
@[simp] theorem State.push_faultInfo (s : State) (a : Word) : (s.push a).faultInfo = s.faultInfo := by
  unfold State.push; split <;> rfl
@[simp] theorem State.push_rnd (s : State) (a : Word) : (s.push a).rnd = s.rnd := by
  unfold State.push; split <;> rfl
@[simp] theorem State.push_inputs (s : State) (a : Word) : (s.push a).inputs = s.inputs := by
  unfold State.push; split <;> rfl
@[simp] theorem State.push_inputIndex (s : State) (a : Word) : (s.push a).inputIndex = s.inputIndex := by
  unfold State.push; split <;> rfl
@[simp] theorem State.push_params (s : State) (a : Word) : (s.push a).params = s.params := by
  unfold State.push; split <;> rfl

/-! ### `State.writeBytes` -/

@[simp] theorem State.writeBytes_v (bs : List Byte) (s : State) (a : Nat) : (s.writeBytes a bs).v = s.v := by
  induction bs generalizing s a with
  | nil => rfl
  | cons b bs ih => simpa [State.writeBytes] using ih (s.writeByte a b) (a + 1)
@[simp] theorem State.writeBytes_i (bs : List Byte) (s : State) (a : Nat) : (s.writeBytes a bs).i = s.i := by
  induction bs generalizing s a with
  | nil => rfl
  | cons b bs ih => simpa [State.writeBytes] using ih (s.writeByte a b) (a + 1)
@[simp] theorem State.writeBytes_pc (bs : List Byte) (s : State) (a : Nat) : (s.writeBytes a bs).pc = s.pc := by
  induction bs generalizing s a with
  | nil => rfl
  | cons b bs ih => simpa [State.writeBytes] using ih (s.writeByte a b) (a + 1)
@[simp] theorem State.writeBytes_stack (bs : List Byte) (s : State) (a : Nat) : (s.writeBytes a bs).stack = s.stack := by
  induction bs generalizing s a with
  | nil => rfl
  | cons b bs ih => simpa [State.writeBytes] using ih (s.writeByte a b) (a + 1)
@[simp] theorem State.writeBytes_sp (bs : List Byte) (s : State) (a : Nat) : (s.writeBytes a bs).sp = s.sp := by
  induction bs generalizing s a with
  | nil => rfl
  | cons b bs ih => simpa [State.writeBytes] using ih (s.writeByte a b) (a + 1)
@[simp] theorem State.writeBytes_dt (bs : List Byte) (s : State) (a : Nat) : (s.writeBytes a bs).dt = s.dt := by
  induction bs generalizing s a with
  | nil => rfl
  | cons b bs ih => simpa [State.writeBytes] using ih (s.writeByte a b) (a + 1)
@[simp] theorem State.writeBytes_st (bs : List Byte) (s : State) (a : Nat) : (s.writeBytes a bs).st = s.st := by
  induction bs generalizing s a with
  | nil => rfl
  | cons b bs ih => simpa [State.writeBytes] using ih (s.writeByte a b) (a + 1)
@[simp] theorem State.writeBytes_fb (bs : List Byte) (s : State) (a : Nat) : (s.writeBytes a bs).fb = s.fb := by
  induction bs generalizing s a with
  | nil => rfl
  | cons b bs ih => simpa [State.writeBytes] using ih (s.writeByte a b) (a + 1)
@[simp] theorem State.writeBytes_changed (bs : List Byte) (s : State) (a : Nat) : (s.writeBytes a bs).changed = s.changed := by
  induction bs generalizing s a with
  | nil => rfl
  | cons b bs ih => simpa [State.writeBytes] using ih (s.writeByte a b) (a + 1)
@[simp] theorem State.writeBytes_keypad (bs : List Byte) (s : State) (a : Nat) : (s.writeBytes a bs).keypad = s.keypad := by
  induction bs generalizing s a with
  | nil => rfl
  | cons b bs ih => simpa [State.writeBytes] using ih (s.writeByte a b) (a + 1)
@[simp] theorem State.writeBytes_waiting (bs : List Byte) (s : State) (a : Nat) : (s.writeBytes a bs).waiting = s.waiting := by
  induction bs generalizing s a with
  | nil => rfl
  | cons b bs ih => simpa [State.writeBytes] using ih (s.writeByte a b) (a + 1)
@[simp] theorem State.writeBytes_kreg (bs : List Byte) (s : State) (a : Nat) : (s.writeBytes a bs).kreg = s.kreg := by
  induction bs generalizing s a with
  | nil => rfl
  | cons b bs ih => simpa [State.writeBytes] using ih (s.writeByte a b) (a + 1)
@[simp] theorem State.writeBytes_halted (bs : List Byte) (s : State) (a : Nat) : (s.writeBytes a bs).halted = s.halted := by
  induction bs generalizing s a with
  | nil => rfl
  | cons b bs ih => simpa [State.writeBytes] using ih (s.writeByte a b) (a + 1)
@[simp] theorem State.writeBytes_faultCode (bs : List Byte) (s : State) (a : Nat) : (s.writeBytes a bs).faultCode = s.faultCode := by
  induction bs generalizing s a with
  | nil => rfl
  | cons b bs ih => simpa [State.writeBytes] using ih (s.writeByte a b) (a + 1)
@[simp] theorem State.writeBytes_faultPc (bs : List Byte) (s : State) (a : Nat) : (s.writeBytes a bs).faultPc = s.faultPc := by
  induction bs generalizing s a with
  | nil => rfl
  | cons b bs ih => simpa [State.writeBytes] using ih (s.writeByte a b) (a + 1)
@[simp] theorem State.writeBytes_faultOpcode (bs : List Byte) (s : State) (a : Nat) : (s.writeBytes a bs).faultOpcode = s.faultOpcode := by
  induction bs generalizing s a with
  | nil => rfl
  | cons b bs ih => simpa [State.writeBytes] using ih (s.writeByte a b) (a + 1)
@[simp] theorem State.writeBytes_faultInfo (bs : List Byte) (s : State) (a : Nat) : (s.writeBytes a bs).faultInfo = s.faultInfo := by
  induction bs generalizing s a with
  | nil => rfl
  | cons b bs ih => simpa [State.writeBytes] using ih (s.writeByte a b) (a + 1)
@[simp] theorem State.writeBytes_rnd (bs : List Byte) (s : State) (a : Nat) : (s.writeBytes a bs).rnd = s.rnd := by
  induction bs generalizing s a with
  | nil => rfl
  | cons b bs ih => simpa [State.writeBytes] using ih (s.writeByte a b) (a + 1)
@[simp] theorem State.writeBytes_inputs (bs : List Byte) (s : State) (a : Nat) : (s.writeBytes a bs).inputs = s.inputs := by
  induction bs generalizing s a with
  | nil => rfl
  | cons b bs ih => simpa [State.writeBytes] using ih (s.writeByte a b) (a + 1)
@[simp] theorem State.writeBytes_inputIndex (bs : List Byte) (s : State) (a : Nat) : (s.writeBytes a bs).inputIndex = s.inputIndex := by
  induction bs generalizing s a with
  | nil => rfl
  | cons b bs ih => simpa [State.writeBytes] using ih (s.writeByte a b) (a + 1)
@[simp] theorem State.writeBytes_params (bs : List Byte) (s : State) (a : Nat) : (s.writeBytes a bs).params = s.params := by
  induction bs generalizing s a with
  | nil => rfl
  | cons b bs ih => simpa [State.writeBytes] using ih (s.writeByte a b) (a + 1)

/-! ### `State.loadRegsFrom` -/

@[simp] theorem State.loadRegsFrom_i (n : Nat) (s : State) (a : Nat) : (s.loadRegsFrom a n).i = s.i := by
  induction n with
  | zero => rfl
  | succ k ih => simpa [State.loadRegsFrom] using ih
@[simp] theorem State.loadRegsFrom_pc (n : Nat) (s : State) (a : Nat) : (s.loadRegsFrom a n).pc = s.pc := by
  induction n with
  | zero => rfl
  | succ k ih => simpa [State.loadRegsFrom] using ih
@[simp] theorem State.loadRegsFrom_stack (n : Nat) (s : State) (a : Nat) : (s.loadRegsFrom a n).stack = s.stack := by
  induction n with
  | zero => rfl
  | succ k ih => simpa [State.loadRegsFrom] using ih
@[simp] theorem State.loadRegsFrom_sp (n : Nat) (s : State) (a : Nat) : (s.loadRegsFrom a n).sp = s.sp := by
  induction n with
  | zero => rfl
  | succ k ih => simpa [State.loadRegsFrom] using ih
@[simp] theorem State.loadRegsFrom_dt (n : Nat) (s : State) (a : Nat) : (s.loadRegsFrom a n).dt = s.dt := by
  induction n with
  | zero => rfl
  | succ k ih => simpa [State.loadRegsFrom] using ih
@[simp] theorem State.loadRegsFrom_st (n : Nat) (s : State) (a : Nat) : (s.loadRegsFrom a n).st = s.st := by
  induction n with
  | zero => rfl
  | succ k ih => simpa [State.loadRegsFrom] using ih
@[simp] theorem State.loadRegsFrom_fb (n : Nat) (s : State) (a : Nat) : (s.loadRegsFrom a n).fb = s.fb := by
  induction n with
  | zero => rfl
  | succ k ih => simpa [State.loadRegsFrom] using ih
@[simp] theorem State.loadRegsFrom_changed (n : Nat) (s : State) (a : Nat) : (s.loadRegsFrom a n).changed = s.changed := by
  induction n with
  | zero => rfl
  | succ k ih => simpa [State.loadRegsFrom] using ih
@[simp] theorem State.loadRegsFrom_keypad (n : Nat) (s : State) (a : Nat) : (s.loadRegsFrom a n).keypad = s.keypad := by
  induction n with
  | zero => rfl
  | succ k ih => simpa [State.loadRegsFrom] using ih
@[simp] theorem State.loadRegsFrom_waiting (n : Nat) (s : State) (a : Nat) : (s.loadRegsFrom a n).waiting = s.waiting := by
  induction n with
  | zero => rfl
  | succ k ih => simpa [State.loadRegsFrom] using ih
@[simp] theorem State.loadRegsFrom_kreg (n : Nat) (s : State) (a : Nat) : (s.loadRegsFrom a n).kreg = s.kreg := by
  induction n with
  | zero => rfl
  | succ k ih => simpa [State.loadRegsFrom] using ih
@[simp] theorem State.loadRegsFrom_mem (n : Nat) (s : State) (a : Nat) : (s.loadRegsFrom a n).mem = s.mem := by
  induction n with
  | zero => rfl
  | succ k ih => simpa [State.loadRegsFrom] using ih
@[simp] theorem State.loadRegsFrom_halted (n : Nat) (s : State) (a : Nat) : (s.loadRegsFrom a n).halted = s.halted := by
  induction n with
  | zero => rfl
  | succ k ih => simpa [State.loadRegsFrom] using ih
@[simp] theorem State.loadRegsFrom_faultCode (n : Nat) (s : State) (a : Nat) : (s.loadRegsFrom a n).faultCode = s.faultCode := by
  induction n with
  | zero => rfl
  | succ k ih => simpa [State.loadRegsFrom] using ih
@[simp] theorem State.loadRegsFrom_faultPc (n : Nat) (s : State) (a : Nat) : (s.loadRegsFrom a n).faultPc = s.faultPc := by
  induction n with
  | zero => rfl
  | succ k ih => simpa [State.loadRegsFrom] using ih
@[simp] theorem State.loadRegsFrom_faultOpcode (n : Nat) (s : State) (a : Nat) : (s.loadRegsFrom a n).faultOpcode = s.faultOpcode := by
  induction n with
  | zero => rfl
  | succ k ih => simpa [State.loadRegsFrom] using ih
@[simp] theorem State.loadRegsFrom_faultInfo (n : Nat) (s : State) (a : Nat) : (s.loadRegsFrom a n).faultInfo = s.faultInfo := by
  induction n with
  | zero => rfl
  | succ k ih => simpa [State.loadRegsFrom] using ih
@[simp] theorem State.loadRegsFrom_rnd (n : Nat) (s : State) (a : Nat) : (s.loadRegsFrom a n).rnd = s.rnd := by
  induction n with
  | zero => rfl
  | succ k ih => simpa [State.loadRegsFrom] using ih
@[simp] theorem State.loadRegsFrom_inputs (n : Nat) (s : State) (a : Nat) : (s.loadRegsFrom a n).inputs = s.inputs := by
  induction n with
  | zero => rfl
  | succ k ih => simpa [State.loadRegsFrom] using ih
@[simp] theorem State.loadRegsFrom_inputIndex (n : Nat) (s : State) (a : Nat) : (s.loadRegsFrom a n).inputIndex = s.inputIndex := by
  induction n with
  | zero => rfl
  | succ k ih => simpa [State.loadRegsFrom] using ih
@[simp] theorem State.loadRegsFrom_params (n : Nat) (s : State) (a : Nat) : (s.loadRegsFrom a n).params = s.params := by
  induction n with
  | zero => rfl
  | succ k ih => simpa [State.loadRegsFrom] using ih

/-! ### `State.serviceWait`: phase 2 -/

@[simp] theorem State.serviceWait_i (s : State) : s.serviceWait.i = s.i := by
  unfold State.serviceWait; split <;> rfl
@[simp] theorem State.serviceWait_pc (s : State) : s.serviceWait.pc = s.pc := by
  unfold State.serviceWait; split <;> rfl
@[simp] theorem State.serviceWait_stack (s : State) : s.serviceWait.stack = s.stack := by
  unfold State.serviceWait; split <;> rfl
@[simp] theorem State.serviceWait_sp (s : State) : s.serviceWait.sp = s.sp := by
  unfold State.serviceWait; split <;> rfl
@[simp] theorem State.serviceWait_dt (s : State) : s.serviceWait.dt = s.dt := by
  unfold State.serviceWait; split <;> rfl
@[simp] theorem State.serviceWait_st (s : State) : s.serviceWait.st = s.st := by
  unfold State.serviceWait; split <;> rfl
@[simp] theorem State.serviceWait_fb (s : State) : s.serviceWait.fb = s.fb := by
  unfold State.serviceWait; split <;> rfl
@[simp] theorem State.serviceWait_changed (s : State) : s.serviceWait.changed = s.changed := by
  unfold State.serviceWait; split <;> rfl
@[simp] theorem State.serviceWait_keypad (s : State) : s.serviceWait.keypad = s.keypad := by
  unfold State.serviceWait; split <;> rfl
@[simp] theorem State.serviceWait_kreg (s : State) : s.serviceWait.kreg = s.kreg := by
  unfold State.serviceWait; split <;> rfl
@[simp] theorem State.serviceWait_mem (s : State) : s.serviceWait.mem = s.mem := by
  unfold State.serviceWait; split <;> rfl
@[simp] theorem State.serviceWait_halted (s : State) : s.serviceWait.halted = s.halted := by
  unfold State.serviceWait; split <;> rfl
@[simp] theorem State.serviceWait_faultCode (s : State) : s.serviceWait.faultCode = s.faultCode := by
  unfold State.serviceWait; split <;> rfl
@[simp] theorem State.serviceWait_faultPc (s : State) : s.serviceWait.faultPc = s.faultPc := by
  unfold State.serviceWait; split <;> rfl
@[simp] theorem State.serviceWait_faultOpcode (s : State) : s.serviceWait.faultOpcode = s.faultOpcode := by
  unfold State.serviceWait; split <;> rfl
@[simp] theorem State.serviceWait_faultInfo (s : State) : s.serviceWait.faultInfo = s.faultInfo := by
  unfold State.serviceWait; split <;> rfl
@[simp] theorem State.serviceWait_rnd (s : State) : s.serviceWait.rnd = s.rnd := by
  unfold State.serviceWait; split <;> rfl
@[simp] theorem State.serviceWait_inputs (s : State) : s.serviceWait.inputs = s.inputs := by
  unfold State.serviceWait; split <;> rfl
@[simp] theorem State.serviceWait_inputIndex (s : State) : s.serviceWait.inputIndex = s.inputIndex := by
  unfold State.serviceWait; split <;> rfl
@[simp] theorem State.serviceWait_params (s : State) : s.serviceWait.params = s.params := by
  unfold State.serviceWait; split <;> rfl

end Sys2Proof.Machine
end

