-- ==== Sys2Proof/Laws/Memory.lean ====
section
/-! SUPPORT. The memory controller's laws: a read after a write, and that every memory operation keeps the canonical
form. -/

namespace Sys2Proof.Machine

theorem Memory.read_erase (p : Params) (m : Memory) (a k : Nat) :
    Memory.read p (Memory.erase m a) k = if k = a then unlisted p k else Memory.read p m k := by
  induction m with
  | nil => simp [Memory.erase, Memory.read]
  | cons c m ih =>
    obtain ⟨j, b⟩ := c
    by_cases hj : a = j
    · subst hj
      by_cases hk : k = a
      · subst hk
        simpa [Memory.erase] using ih
      · simpa [Memory.erase, Memory.read, hk] using ih
    · by_cases hk : k = j
      · subst hk
        have hka : ¬ k = a := fun h => hj h.symm
        simp [Memory.erase, Memory.read, hj, hka]
      · simp [Memory.erase, Memory.read, hj, hk, ih]

theorem Memory.read_insert (p : Params) (m : Memory) (a k : Nat) (b : Byte)
    (h : ∀ c ∈ m, c.1 ≠ a) :
    Memory.read p (Memory.insert m a b) k = if k = a then b else Memory.read p m k := by
  induction m with
  | nil => simp [Memory.insert, Memory.read]
  | cons c m ih =>
    obtain ⟨j, d⟩ := c
    have hj : j ≠ a := h (j, d) (by simp)
    have ih' := ih (fun c hc => h c (by simp [hc]))
    by_cases hlt : a < j
    · simp [Memory.insert, hlt, Memory.read]
    · by_cases hk : k = j
      · subst hk
        simp [Memory.insert, hlt, Memory.read, hj]
      · simp [Memory.insert, hlt, Memory.read, hk, ih']

theorem Memory.mem_erase {m : Memory} {a : Nat} {c : Host.Cell} (h : c ∈ Memory.erase m a) :
    c ∈ m ∧ c.1 ≠ a := by
  induction m with
  | nil => simp [Memory.erase] at h
  | cons d m ih =>
    obtain ⟨j, b⟩ := d
    by_cases hj : a = j
    · rw [Memory.erase, if_pos hj] at h
      have := ih h
      exact ⟨by simp [this.1], this.2⟩
    · rw [Memory.erase, if_neg hj] at h
      rcases List.mem_cons.1 h with rfl | h
      · exact ⟨by simp, fun e => hj e.symm⟩
      · have := ih h
        exact ⟨by simp [this.1], this.2⟩

theorem Memory.mem_insert {m : Memory} {a : Nat} {b : Byte} {c : Host.Cell}
    (h : c ∈ Memory.insert m a b) : c = (a, b) ∨ c ∈ m := by
  induction m with
  | nil => simpa [Memory.insert] using h
  | cons d m ih =>
    obtain ⟨j, e⟩ := d
    by_cases hlt : a < j
    · simpa [Memory.insert, hlt] using h
    · rw [Memory.insert, if_neg hlt] at h
      rcases List.mem_cons.1 h with rfl | h
      · simp
      · rcases ih h with rfl | h
        · simp
        · simp [h]

/-- A read after a write: the byte written at its address, every other address as before, in any memory. -/
theorem Memory.read_write (p : Params) (m : Memory) (a k : Nat) (b : Byte) :
    Memory.read p (Memory.write p m a b) k = if k = a then b else Memory.read p m k := by
  unfold Memory.write
  split
  · next h =>
    rw [Memory.read_erase]
    split
    · next hk => rw [hk, h]
    · rfl
  · rw [Memory.read_insert _ _ _ _ _ (fun c hc => (Memory.mem_erase hc).2), Memory.read_erase]
    split <;> rfl

theorem Memory.erase_pairwise {m : Memory} (a : Nat) (h : m.Pairwise (fun c d => c.1 < d.1)) :
    (Memory.erase m a).Pairwise (fun c d => c.1 < d.1) := by
  induction m with
  | nil => simp [Memory.erase]
  | cons c m ih =>
    obtain ⟨j, b⟩ := c
    rw [List.pairwise_cons] at h
    unfold Memory.erase
    split
    · exact ih h.2
    · exact List.pairwise_cons.2 ⟨fun d hd => h.1 d (Memory.mem_erase hd).1, ih h.2⟩

theorem Memory.insert_pairwise {m : Memory} (a : Nat) (b : Byte) (h : m.Pairwise (fun c d => c.1 < d.1))
    (ha : ∀ c ∈ m, c.1 ≠ a) : (Memory.insert m a b).Pairwise (fun c d => c.1 < d.1) := by
  induction m with
  | nil => simp [Memory.insert]
  | cons c m ih =>
    obtain ⟨j, e⟩ := c
    have h' := List.pairwise_cons.1 h
    have hj : j ≠ a := ha (j, e) (by simp)
    unfold Memory.insert
    split
    · next hlt =>
      refine List.pairwise_cons.2 ⟨fun d hd => ?_, h⟩
      rcases List.mem_cons.1 hd with rfl | hd
      · exact hlt
      · exact Nat.lt_trans hlt (h'.1 d hd)
    · refine List.pairwise_cons.2 ⟨fun d hd => ?_, ih h'.2 (fun c hc => ha c (by simp [hc]))⟩
      rcases Memory.mem_insert hd with rfl | hd
      · show j < a
        omega
      · exact h'.1 d hd

/-- A write inside the address space keeps the canonical form. -/
theorem Memory.wf_write {p : Params} {m : Memory} (h : Memory.wf p m) {a : Nat} (ha : a < memSize) (b : Byte) :
    Memory.wf p (Memory.write p m a b) := by
  unfold Memory.write
  split
  · exact ⟨Memory.erase_pairwise a h.1, fun c hc => h.2 c (Memory.mem_erase hc).1⟩
  · next hb =>
    refine ⟨Memory.insert_pairwise a b (Memory.erase_pairwise a h.1) (fun c hc => (Memory.mem_erase hc).2), ?_⟩
    intro c hc
    rcases Memory.mem_insert hc with rfl | hc
    · exact ⟨ha, hb⟩
    · exact h.2 c (Memory.mem_erase hc).1

/-- An address no cell holds reads as unlisted. -/
theorem Memory.read_of_forall_ne {p : Params} {m : Memory} {a : Nat} (h : ∀ c ∈ m, c.1 ≠ a) :
    Memory.read p m a = unlisted p a := by
  induction m with
  | nil => rfl
  | cons c m ih =>
    obtain ⟨j, b⟩ := c
    have hj : ¬ a = j := fun e => h (j, b) (by simp) e.symm
    simp [Memory.read, hj, ih (fun c hc => h c (by simp [hc]))]

/-! ### The state's view -/

theorem State.readByte_writeByte (s : State) (a k : Nat) (b : Byte) :
    (s.writeByte a b).readByte k = if k = a then b else s.readByte k :=
  Memory.read_write s.params s.mem a k b

/-- An operation that keeps memory and the parameters keeps every byte. -/
theorem State.readByte_congr {s t : State} (hm : t.mem = s.mem) (hp : t.params = s.params) (a : Nat) :
    t.readByte a = s.readByte a := by
  simp [State.readByte, hm, hp]

/-- A store of consecutive bytes: byte `k` of the list at `a + k`, every other address as before. -/
theorem State.readByte_writeBytes (bs : List Byte) (s : State) (a k : Nat) :
    (s.writeBytes a bs).readByte k =
      if h : a ≤ k ∧ k - a < bs.length then bs[k - a] else s.readByte k := by
  induction bs generalizing s a with
  | nil => simp [State.writeBytes]
  | cons b bs ih =>
    rw [State.writeBytes, ih, State.readByte_writeByte]
    by_cases hk : k = a
    · subst hk
      simp
    · by_cases h1 : a + 1 ≤ k ∧ k - (a + 1) < bs.length
      · have h2 : a ≤ k ∧ k - a < (b :: bs).length := by simp; omega
        rw [dif_pos h1, dif_pos h2]
        have h3 : k - a = (k - (a + 1)) + 1 := by omega
        simp [h3]
      · have h2 : ¬ (a ≤ k ∧ k - a < (b :: bs).length) := by simp; omega
        rw [dif_neg h1, dif_neg h2, if_neg hk]

/-- Bytes outside the stored ones read as before. -/
theorem State.readByte_writeBytes_outside (bs : List Byte) (s : State) (a k : Nat)
    (h : k < a ∨ a + bs.length ≤ k) : (s.writeBytes a bs).readByte k = s.readByte k := by
  rw [State.readByte_writeBytes, dif_neg]
  omega

/-- A store inside the address space keeps the canonical form. -/
theorem State.writeBytes_memOk (bs : List Byte) (s : State) (a : Nat) (h : Memory.wf s.params s.mem)
    (ha : a + bs.length ≤ memSize) : Memory.wf (s.writeBytes a bs).params (s.writeBytes a bs).mem := by
  induction bs generalizing s a with
  | nil => exact h
  | cons b bs ih =>
    simp only [List.length_cons] at ha
    exact ih (s.writeByte a b) (a + 1) (Memory.wf_write h (by omega) b) (by omega)

end Sys2Proof.Machine
end

