-- ==== Sys2Proof/Laws/Ops.lean ====
section
/-! SUPPORT. One lemma per shared operation over registers, stack, timers, keypad and ranges, saying once all it does. -/

namespace Sys2Proof.Machine

/-! ### Registers -/

theorem State.reg_setReg (s : State) (r q : Reg) (b : Byte) :
    (s.setReg r b).reg q = if q = r then b else s.reg q := by
  unfold State.reg State.setReg
  simp only [Vector.getElem_set, BitVec.toNat_inj, eq_comm]

theorem State.reg_congr {s t : State} (h : t.v = s.v) (r : Reg) : t.reg r = s.reg r := by
  simp [State.reg, h]

theorem State.reg_setFlag (s : State) (f : Bool) (q : Reg) :
    (s.setFlag f).reg q = if q = VF then flagByte f else s.reg q := State.reg_setReg s VF q _

/-- A result and its flag: VF holds the flag even when VF is the destination (42_alu.md R190). -/
theorem State.reg_setResultFlag (s : State) (r q : Reg) (b : Byte) (f : Bool) :
    (s.setResultFlag r b f).reg q = if q = VF then flagByte f else if q = r then b else s.reg q := by
  rw [State.setResultFlag, State.reg_setFlag, State.reg_setReg]

@[simp] theorem State.reg_advance (s : State) (q : Reg) : s.advance.reg q = s.reg q := rfl
@[simp] theorem State.reg_skipWhen (s : State) (c : Bool) (q : Reg) : (s.skipWhen c).reg q = s.reg q := rfl
@[simp] theorem State.reg_jump (s : State) (a : Word) (q : Reg) : (s.jump a).reg q = s.reg q := rfl
@[simp] theorem State.reg_pop (s : State) (q : Reg) : s.pop.reg q = s.reg q := rfl
@[simp] theorem State.reg_push (s : State) (a : Word) (q : Reg) : (s.push a).reg q = s.reg q :=
  State.reg_congr (by simp) q
@[simp] theorem State.reg_writeBytes (s : State) (a : Nat) (bs : List Byte) (q : Reg) :
    (s.writeBytes a bs).reg q = s.reg q := State.reg_congr (by simp) q
@[simp] theorem State.reg_raise (s : State) (c : Fault) (info : Word) (j : Instr) (q : Reg) :
    (s.raise c info j).reg q = s.reg q := rfl
@[simp] theorem State.reg_enterFault (s : State) (c : Fault) (info op : Word) (q : Reg) :
    (s.enterFault c info op).reg q = s.reg q := rfl
@[simp] theorem State.reg_sample (s : State) (q : Reg) : s.sample.reg q = s.reg q := rfl
@[simp] theorem State.reg_countdown (s : State) (q : Reg) : s.countdown.reg q = s.reg q := rfl

theorem State.reg_present (s : State) (d : Drawing) (q : Reg) :
    (s.present d).reg q = if q = VF then flagByte d.col else s.reg q := by
  rw [State.present, State.reg_setFlag]; rfl

@[simp] theorem State.readByte_advance (s : State) (a : Nat) : s.advance.readByte a = s.readByte a := rfl
@[simp] theorem State.readByte_skipWhen (s : State) (c : Bool) (a : Nat) :
    (s.skipWhen c).readByte a = s.readByte a := rfl
@[simp] theorem State.readByte_jump (s : State) (b : Word) (a : Nat) : (s.jump b).readByte a = s.readByte a := rfl
@[simp] theorem State.readByte_pop (s : State) (a : Nat) : s.pop.readByte a = s.readByte a := rfl
@[simp] theorem State.readByte_push (s : State) (b : Word) (a : Nat) : (s.push b).readByte a = s.readByte a :=
  State.readByte_congr (by simp) (by simp) a
@[simp] theorem State.readByte_setReg (s : State) (r : Reg) (b : Byte) (a : Nat) :
    (s.setReg r b).readByte a = s.readByte a := rfl
@[simp] theorem State.readByte_setFlag (s : State) (f : Bool) (a : Nat) : (s.setFlag f).readByte a = s.readByte a := rfl
@[simp] theorem State.readByte_setResultFlag (s : State) (r : Reg) (b : Byte) (f : Bool) (a : Nat) :
    (s.setResultFlag r b f).readByte a = s.readByte a := rfl
@[simp] theorem State.readByte_loadRegsFrom (s : State) (k n a : Nat) :
    (s.loadRegsFrom k n).readByte a = s.readByte a := State.readByte_congr (by simp) (by simp) a
@[simp] theorem State.readByte_raise (s : State) (c : Fault) (info : Word) (j : Instr) (a : Nat) :
    (s.raise c info j).readByte a = s.readByte a := rfl
@[simp] theorem State.readByte_enterFault (s : State) (c : Fault) (info op : Word) (a : Nat) :
    (s.enterFault c info op).readByte a = s.readByte a := rfl
@[simp] theorem State.readByte_present (s : State) (d : Drawing) (a : Nat) :
    (s.present d).readByte a = s.readByte a := rfl
@[simp] theorem State.readByte_sample (s : State) (a : Nat) : s.sample.readByte a = s.readByte a := rfl
@[simp] theorem State.readByte_countdown (s : State) (a : Nat) : s.countdown.readByte a = s.readByte a := rfl
@[simp] theorem State.readByte_serviceWait (s : State) (a : Nat) : s.serviceWait.readByte a = s.readByte a :=
  State.readByte_congr (by simp) (by simp) a

/-- Loading registers: those below the count hold the bytes read, the others are as before. -/
theorem State.reg_loadRegsFrom (s : State) (a n : Nat) (hn : n ≤ 16) (q : Reg) :
    (s.loadRegsFrom a n).reg q = if q.toNat < n then s.readByte (a + q.toNat) else s.reg q := by
  induction n with
  | zero => simp [State.loadRegsFrom]
  | succ k ih =>
    rw [State.loadRegsFrom, State.reg_setReg, ih (by omega)]
    have hk : (q = BitVec.ofNat 4 k) ↔ q.toNat = k := by
      rw [← BitVec.toNat_inj, BitVec.toNat_ofNat, Nat.mod_eq_of_lt (by omega)]
    by_cases h : q.toNat = k
    · rw [if_pos (hk.2 h), if_pos (by omega), h]
    · rw [if_neg (fun e => h (hk.1 e))]
      by_cases h2 : q.toNat < k
      · rw [if_pos h2, if_pos (by omega)]
      · rw [if_neg h2, if_neg (by omega)]

@[simp] theorem State.regsUpTo_length (s : State) (x : Reg) : (s.regsUpTo x).length = x.toNat + 1 := by
  simp [State.regsUpTo]

theorem State.regsUpTo_getElem (s : State) (x : Reg) (k : Nat) (h : k < (s.regsUpTo x).length) :
    (s.regsUpTo x)[k] = s.reg (BitVec.ofNat 4 k) := by
  simp [State.regsUpTo]

@[simp] theorem bcdDigits_length (b : Byte) : (bcdDigits b).length = 3 := rfl

/-! ### The stack -/

theorem State.push_of_lt (s : State) (a : Word) (h : s.sp.val < 16) :
    (s.push a).sp.val = s.sp.val + 1 ∧ (s.push a).stack = s.stack.set s.sp.val a h := by
  simp [State.push, h]

@[simp] theorem State.pop_sp_val (s : State) : s.pop.sp.val = s.sp.val - 1 := rfl

/-- A pop after a push gives the pushed address and the old depth (41_control_flow.md R169). -/
theorem State.topOfStack_push (s : State) (a : Word) (h : s.sp.val < 16) :
    (s.push a).topOfStack = a ∧ (s.push a).pop.sp = s.sp := by
  obtain ⟨h1, h2⟩ := s.push_of_lt a h
  constructor
  · unfold State.topOfStack
    simp [h1, h2]
  · apply Fin.ext
    simp [h1]

theorem State.sp_eq_zero_iff (s : State) : s.sp = 0 ↔ s.sp.val = 0 := Fin.ext_iff

theorem State.sp_eq_sixteen_iff (s : State) : s.sp = 16 ↔ s.sp.val = 16 := Fin.ext_iff

/-! ### The operations that loop write one field -/

theorem State.writeBytes_eq (bs : List Byte) (s : State) (a : Nat) :
    s.writeBytes a bs = { s with mem := (s.writeBytes a bs).mem } := by
  induction bs generalizing s a with
  | nil => rfl
  | cons b bs ih => exact ih (s.writeByte a b) (a + 1)

theorem State.loadRegsFrom_eq (s : State) (a n : Nat) :
    s.loadRegsFrom a n = { s with v := (s.loadRegsFrom a n).v } := by
  induction n with
  | zero => rfl
  | succ k ih => rw [State.loadRegsFrom, ih]; rfl

/-! ### Ranges, timers, keys, faults -/

theorem outOfRange_iff (base count : Nat) :
    outOfRange base count = true ↔ 0 < count ∧ 0xFFF < base + (count - 1) := by
  simp [outOfRange]

theorem keyInRange_iff (b : Byte) : keyInRange b = true ↔ b.toNat ≤ 0x0F := by
  simp [keyInRange]

theorem indexedTarget_toNat (nnn : Addr) (b : Byte) : (indexedTarget nnn b).toNat = nnn.toNat + b.toNat := by
  have h1 := nnn.isLt
  have h2 := b.isLt
  simp [indexedTarget, zextAddr, zextByte]
  omega

theorem zextAddr_toNat (nnn : Addr) : (zextAddr nnn).toNat = nnn.toNat := by
  have h1 := nnn.isLt
  simp [zextAddr]
  omega

theorem zextByte_toNat (b : Byte) : (zextByte b).toNat = b.toNat := by
  have h1 := b.isLt
  simp [zextByte]
  omega

theorem glyphAddr_toNat (b : Byte) : (glyphAddr b).toNat = 5 * b.toNat := by
  have h1 := b.isLt
  simp [glyphAddr, zextByte]
  omega

theorem tick_toNat (t : Byte) : (tick t).toNat = t.toNat - 1 := by
  unfold tick
  split
  · next h => simp [h]
  · next h =>
    have h0 : 0 < t.toNat := Nat.pos_of_ne_zero fun e => h (BitVec.eq_of_toNat_eq (by simpa using e))
    have h1 := t.isLt
    rw [BitVec.toNat_sub]
    simp
    omega

/-- The scan finds a key exactly when it is the lowest pressed one (40_cycle.md R132). -/
theorem firstKey_eq_some (keys : BitVec 16) (k : Nat) :
    firstKey keys = some k ↔ k < 16 ∧ keys.getLsbD k = true ∧ ∀ j < k, keys.getLsbD j = false := by
  simp only [firstKey, List.find?_range_eq_some, Bool.not_eq_true', List.mem_range]
  tauto

/-- The scan finds nothing exactly when no key is pressed. -/
theorem firstKey_eq_none (keys : BitVec 16) : firstKey keys = none ↔ keys = 0 := by
  rw [firstKey, List.find?_eq_none]
  constructor
  · intro h
    apply BitVec.eq_of_getLsbD_eq
    intro i hi
    simpa using h i (by simpa using hi)
  · rintro rfl
    simp

theorem Fault.ofCode_code (f : Fault) : Fault.ofCode f.code = some f := by cases f <;> rfl

theorem Fault.code_ne_zero (f : Fault) : f.code ≠ 0 := by cases f <;> decide

end Sys2Proof.Machine
end

