-- ==== Sys2Proof/Laws/Display.lean ====
section
/-! SUPPORT. The blitter, said once: which pixels a drawing toggles, and when it reports a collision (44_display.md R261,
R262). -/

namespace Sys2Proof.Machine

theorem pixel_togglePixel (fb : Framebuffer) {x y a b : Nat} (hx : x < 64) (hy : y < 32) (hb : b < 32) :
    pixel (togglePixel fb a b) x y = (pixel fb x y ^^ decide (x = a ∧ y = b)) := by
  unfold pixel togglePixel
  rw [dif_pos hy, dif_pos hy, dif_pos hb, Vector.getElem_set]
  split
  · next h =>
    subst h
    by_cases h : x = a
    · subst h; simp [hx]
    · simp [h, Ne.symm h]
  · next h =>
    simp [Ne.symm h]

@[simp] theorem pixel_blankScreen (x y : Nat) : pixel blankScreen x y = false := by
  unfold pixel blankScreen
  split <;> simp

/-- A pixel of a sprite row lit at screen column `px` among the first `k` columns. -/
def rowHits (b : Byte) (cx k px : Nat) : Prop := ∃ c < k, b.getLsbD (7 - c) = true ∧ px = (cx + c) % 64

theorem rowHits_succ (b : Byte) (cx k px : Nat) :
    rowHits b cx (k + 1) px ↔ rowHits b cx k px ∨ (b.getLsbD (7 - k) = true ∧ px = (cx + k) % 64) := by
  constructor
  · rintro ⟨c, hc, h⟩
    by_cases e : c = k
    · subst e; exact .inr h
    · exact .inl ⟨c, by omega, h⟩
  · rintro (⟨c, hc, h⟩ | h)
    · exact ⟨c, by omega, h⟩
    · exact ⟨k, by omega, h⟩

/-- Distinct columns of a row light distinct screen columns (44_display.md R262). -/
theorem rowHits_fresh (b : Byte) (cx k : Nat) (hk : k < 8) : ¬ rowHits b cx k ((cx + k) % 64) := by
  rintro ⟨c, hc, -, h⟩
  omega

/-- The first `k` columns of a row: each lit pixel of row `py` is toggled, and a lit pixel that was 1 is a collision. -/
theorem Drawing.columns_spec (b : Byte) (cx py : Nat) (hpy : py < 32) (d : Drawing) (k : Nat) (hk : k ≤ 8) :
    (∀ x y, x < 64 → y < 32 →
      (pixel ((List.range k).foldl (Drawing.column b cx py) d).fb x y = true ↔
        (pixel d.fb x y = true ↔ ¬ (y = py ∧ rowHits b cx k x)))) ∧
    (((List.range k).foldl (Drawing.column b cx py) d).col = true ↔
      d.col = true ∨ ∃ x < 64, rowHits b cx k x ∧ pixel d.fb x py = true) := by
  induction k with
  | zero => simp [rowHits]
  | succ k ih =>
    obtain ⟨ih1, ih2⟩ := ih (by omega)
    have hx0 : (cx + k) % 64 < 64 := Nat.mod_lt _ (by omega)
    have hfresh := rowHits_fresh b cx k (by omega)
    rw [List.range_succ, List.foldl_append]
    simp only [List.foldl_cons, List.foldl_nil]
    generalize hD : (List.range k).foldl (Drawing.column b cx py) d = D at ih1 ih2
    unfold Drawing.column
    split
    · next hb =>
      constructor
      · intro x y hx hy
        simp only [Drawing.toggle]
        rw [pixel_togglePixel _ hx hy hpy, rowHits_succ]
        have := ih1 x y hx hy
        by_cases hxy : x = (cx + k) % 64 ∧ y = py
        · obtain ⟨rfl, rfl⟩ := hxy
          simp [hb, hfresh] at this ⊢
          simp [this]
        · have hor : (y = py ∧ (rowHits b cx k x ∨ b.getLsbD (7 - k) = true ∧ x = (cx + k) % 64)) ↔
              (y = py ∧ rowHits b cx k x) :=
            ⟨fun h => ⟨h.1, h.2.resolve_right fun h' => hxy ⟨h'.2, h.1⟩⟩, fun h => ⟨h.1, .inl h.2⟩⟩
          rw [hor, ← this]
          simp [hxy]
      · simp only [Drawing.toggle, Bool.or_eq_true, ih2, rowHits_succ]
        have hp := ih1 _ py hx0 hpy
        simp only [hfresh, and_false, not_false_eq_true, iff_true] at hp
        constructor
        · rintro ((h | ⟨x, hx, h, h'⟩) | h)
          · exact .inl h
          · exact .inr ⟨x, hx, .inl h, h'⟩
          · exact .inr ⟨_, hx0, .inr ⟨hb, rfl⟩, hp.1 h⟩
        · rintro (h | ⟨x, hx, h | ⟨-, rfl⟩, h'⟩)
          · exact .inl (.inl h)
          · exact .inl (.inr ⟨x, hx, h, h'⟩)
          · exact .inr (hp.2 h')
    · next hb =>
      have hr : ∀ x, rowHits b cx (k + 1) x ↔ rowHits b cx k x := fun x => by
        rw [rowHits_succ]; simp [hb]
      simp only [hr]
      exact ⟨ih1, ih2⟩

/-- A pixel of the first `n` sprite rows lit at screen pixel (px, py) (44_display.md R261). -/
def spriteHits (bytes : Nat → Byte) (cx cy n px py : Nat) : Prop :=
  ∃ r < n, py = (cy + r) % 32 ∧ rowHits (bytes r) cx 8 px

theorem spriteHits_succ (bytes : Nat → Byte) (cx cy n px py : Nat) :
    spriteHits bytes cx cy (n + 1) px py ↔
      spriteHits bytes cx cy n px py ∨ (py = (cy + n) % 32 ∧ rowHits (bytes n) cx 8 px) := by
  constructor
  · rintro ⟨c, hc, h⟩
    by_cases e : c = n
    · subst e; exact .inr h
    · exact .inl ⟨c, by omega, h⟩
  · rintro (⟨c, hc, h⟩ | h)
    · exact ⟨c, by omega, h⟩
    · exact ⟨n, by omega, h⟩

/-- A sprite of at most 15 rows: each lit pixel is toggled, every other pixel is as before, and the collision flag is up
exactly when a lit pixel was 1 (44_display.md R262). -/
theorem Drawing.sprite_spec (bytes : Nat → Byte) (cx cy : Nat) (d : Drawing) (n : Nat) (hn : n ≤ 15) :
    (∀ x y, x < 64 → y < 32 →
      (pixel (Drawing.sprite bytes cx cy d n).fb x y = true ↔
        (pixel d.fb x y = true ↔ ¬ spriteHits bytes cx cy n x y))) ∧
    ((Drawing.sprite bytes cx cy d n).col = true ↔
      d.col = true ∨ ∃ x < 64, ∃ y < 32, spriteHits bytes cx cy n x y ∧ pixel d.fb x y = true) := by
  induction n with
  | zero => simp [Drawing.sprite, spriteHits]
  | succ n ih =>
    obtain ⟨ih1, ih2⟩ := ih (by omega)
    have hy0 : (cy + n) % 32 < 32 := Nat.mod_lt _ (by omega)
    have hfresh : ∀ x, ¬ spriteHits bytes cx cy n x ((cy + n) % 32) := by
      rintro x ⟨r, hr, h, -⟩
      omega
    obtain ⟨c1, c2⟩ := Drawing.columns_spec (bytes n) cx _ hy0 (Drawing.sprite bytes cx cy d n) 8 (by omega)
    simp only [Drawing.sprite, Drawing.row]
    constructor
    · intro x y hx hy
      rw [c1 x y hx hy, ih1 x y hx hy, spriteHits_succ]
      by_cases e : y = (cy + n) % 32
      · subst e
        simp [hfresh]
      · simp [e]
    · rw [c2, ih2]
      have hp := fun x (hx : x < 64) => ih1 x _ hx hy0
      simp only [hfresh, not_false_eq_true, iff_true] at hp
      constructor
      · rintro ((h | ⟨x, hx, y, hy, h, h'⟩) | ⟨x, hx, h, h'⟩)
        · exact .inl h
        · exact .inr ⟨x, hx, y, hy, (spriteHits_succ ..).2 (.inl h), h'⟩
        · exact .inr ⟨x, hx, _, hy0, (spriteHits_succ ..).2 (.inr ⟨rfl, h⟩), (hp x hx).1 h'⟩
      · rintro (h | ⟨x, hx, y, hy, h, h'⟩)
        · exact .inl (.inl h)
        · rcases (spriteHits_succ ..).1 h with g | ⟨e, g⟩
          · exact .inl (.inr ⟨x, hx, y, hy, g, h'⟩)
          · exact .inr ⟨x, hx, g, (hp x hx).2 (e ▸ h')⟩

/-- Two framebuffers with the same pixels are the same. -/
theorem fb_ext {f g : Framebuffer} (h : ∀ x y, x < 64 → y < 32 → (pixel f x y = true ↔ pixel g x y = true)) :
    f = g := by
  apply Vector.ext
  intro y hy
  apply BitVec.eq_of_getLsbD_eq
  intro x hx
  have := h x y hx hy
  simp only [pixel, dif_pos hy] at this
  exact Bool.eq_iff_iff.2 this

end Sys2Proof.Machine
end

