-- ==== Sys2Proof/Laws/Encoding.lean ====
section
/-! SUPPORT. The fields of a packed word are the operands it was packed from, and a word is its fields packed again
(30_encoding.md R101, R102). -/

namespace Sys2Proof

/-! Each format, bit by bit. -/

theorem formatA_bit (o : BitVec 4) (nnn : Addr) (i : Nat) :
    (formatA o nnn).getLsbD i = if i < 12 then nnn.getLsbD i else o.getLsbD (i - 12) :=
  BitVec.getLsbD_append

theorem formatXK_bit (o : BitVec 4) (x : Reg) (kk : Byte) (i : Nat) :
    (formatXK o x kk).getLsbD i =
      if i < 8 then kk.getLsbD i else if i - 8 < 4 then x.getLsbD (i - 8) else o.getLsbD (i - 8 - 4) := by
  rw [← BitVec.getLsbD_append]
  exact BitVec.getLsbD_append

theorem formatXY_bit (o : BitVec 4) (x y : Reg) (n : BitVec 4) (i : Nat) :
    (formatXY o x y n).getLsbD i =
      if i < 4 then n.getLsbD i else if i - 4 < 4 then y.getLsbD (i - 4)
      else if i - 4 - 4 < 4 then x.getLsbD (i - 4 - 4) else o.getLsbD (i - 4 - 4 - 4) := by
  rw [← BitVec.getLsbD_append, ← BitVec.getLsbD_append]
  exact BitVec.getLsbD_append

theorem wordOfBytes_bit (high low : Byte) (i : Nat) :
    (wordOfBytes high low).getLsbD i = if i < 8 then low.getLsbD i else high.getLsbD (i - 8) :=
  BitVec.getLsbD_append

/-! The fields of a packed word. -/

@[simp] theorem fieldO_formatA (o : BitVec 4) (nnn : Addr) : fieldO (formatA o nnn) = o := by
  apply BitVec.eq_of_getLsbD_eq; intro i hi
  simp [fieldO, formatA_bit, hi]
@[simp] theorem fieldNNN_formatA (o : BitVec 4) (nnn : Addr) : fieldNNN (formatA o nnn) = nnn := by
  apply BitVec.eq_of_getLsbD_eq; intro i hi
  simp [fieldNNN, formatA_bit, hi]

@[simp] theorem fieldO_formatXK (o : BitVec 4) (x : Reg) (kk : Byte) : fieldO (formatXK o x kk) = o := by
  apply BitVec.eq_of_getLsbD_eq; intro i hi
  simp only [fieldO, formatXK_bit, BitVec.getLsbD_extractLsb']
  interval_cases i <;> simp
@[simp] theorem fieldX_formatXK (o : BitVec 4) (x : Reg) (kk : Byte) : fieldX (formatXK o x kk) = x := by
  apply BitVec.eq_of_getLsbD_eq; intro i hi
  simp only [fieldX, formatXK_bit, BitVec.getLsbD_extractLsb']
  interval_cases i <;> simp
@[simp] theorem fieldKK_formatXK (o : BitVec 4) (x : Reg) (kk : Byte) : fieldKK (formatXK o x kk) = kk := by
  apply BitVec.eq_of_getLsbD_eq; intro i hi
  simp [fieldKK, formatXK_bit, hi]

@[simp] theorem fieldO_formatXY (o : BitVec 4) (x y : Reg) (n : BitVec 4) : fieldO (formatXY o x y n) = o := by
  apply BitVec.eq_of_getLsbD_eq; intro i hi
  simp only [fieldO, formatXY_bit, BitVec.getLsbD_extractLsb']
  interval_cases i <;> simp
@[simp] theorem fieldX_formatXY (o : BitVec 4) (x y : Reg) (n : BitVec 4) : fieldX (formatXY o x y n) = x := by
  apply BitVec.eq_of_getLsbD_eq; intro i hi
  simp only [fieldX, formatXY_bit, BitVec.getLsbD_extractLsb']
  interval_cases i <;> simp
@[simp] theorem fieldY_formatXY (o : BitVec 4) (x y : Reg) (n : BitVec 4) : fieldY (formatXY o x y n) = y := by
  apply BitVec.eq_of_getLsbD_eq; intro i hi
  simp only [fieldY, formatXY_bit, BitVec.getLsbD_extractLsb']
  interval_cases i <;> simp
@[simp] theorem fieldN_formatXY (o : BitVec 4) (x y : Reg) (n : BitVec 4) : fieldN (formatXY o x y n) = n := by
  apply BitVec.eq_of_getLsbD_eq; intro i hi
  simp [fieldN, formatXY_bit, hi]

/-! A word is its fields packed again. -/

theorem formatA_fields (w : Word) : formatA (fieldO w) (fieldNNN w) = w := by
  apply BitVec.eq_of_getLsbD_eq; intro i hi
  simp only [fieldO, fieldNNN, formatA_bit, BitVec.getLsbD_extractLsb']
  interval_cases i <;> simp
theorem formatXK_fields (w : Word) : formatXK (fieldO w) (fieldX w) (fieldKK w) = w := by
  apply BitVec.eq_of_getLsbD_eq; intro i hi
  simp only [fieldO, fieldX, fieldKK, formatXK_bit, BitVec.getLsbD_extractLsb']
  interval_cases i <;> simp
theorem formatXY_fields (w : Word) : formatXY (fieldO w) (fieldX w) (fieldY w) (fieldN w) = w := by
  apply BitVec.eq_of_getLsbD_eq; intro i hi
  simp only [fieldO, fieldX, fieldY, fieldN, formatXY_bit, BitVec.getLsbD_extractLsb']
  interval_cases i <;> simp

/-- A word is its two bytes, the high one at the lower address (20_memory.md R71). -/
theorem wordOfBytes_bytes (w : Word) : wordOfBytes (highByte w) (lowByte w) = w := by
  apply BitVec.eq_of_getLsbD_eq; intro i hi
  simp only [wordOfBytes_bit, highByte, lowByte, BitVec.getLsbD_extractLsb']
  interval_cases i <;> simp

/-! What each mask of the opcode map keeps of a word, in fields (30_encoding.md R104). -/

theorem mask_all (w : Word) : w &&& 0xFFFF#16 = formatA (fieldO w) (fieldNNN w) := by
  rw [formatA_fields]; exact BitVec.and_allOnes
theorem mask_o (w : Word) : w &&& 0xF000#16 = formatA (fieldO w) 0 := by
  apply BitVec.eq_of_getLsbD_eq; intro i hi
  simp only [fieldO, formatA_bit, BitVec.getLsbD_extractLsb', BitVec.getLsbD_and]
  interval_cases i <;> simp
theorem mask_o_n (w : Word) : w &&& 0xF00F#16 = formatXY (fieldO w) 0 0 (fieldN w) := by
  apply BitVec.eq_of_getLsbD_eq; intro i hi
  simp only [fieldO, fieldN, formatXY_bit, BitVec.getLsbD_extractLsb', BitVec.getLsbD_and]
  interval_cases i <;> simp
theorem mask_o_kk (w : Word) : w &&& 0xF0FF#16 = formatXK (fieldO w) 0 (fieldKK w) := by
  apply BitVec.eq_of_getLsbD_eq; intro i hi
  simp only [fieldO, fieldKK, formatXK_bit, BitVec.getLsbD_extractLsb', BitVec.getLsbD_and]
  interval_cases i <;> simp

/-- The value of a format A word. -/
theorem formatA_toNat (o : BitVec 4) (nnn : Addr) : (formatA o nnn).toNat = 0x1000 * o.toNat + nnn.toNat := by
  have := nnn.isLt
  simp only [formatA, BitVec.toNat_append]
  rw [← Nat.shiftLeft_add_eq_or_of_lt this, Nat.shiftLeft_eq]; omega

/-- The value of a format XK word. -/
theorem formatXK_toNat (o : BitVec 4) (x : Reg) (kk : Byte) :
    (formatXK o x kk).toNat = 0x1000 * o.toNat + 0x100 * x.toNat + kk.toNat := by
  have h1 := kk.isLt
  have h2 := x.isLt
  simp only [formatXK, BitVec.toNat_append]
  rw [← Nat.shiftLeft_add_eq_or_of_lt h1, ← Nat.shiftLeft_add_eq_or_of_lt h2, Nat.shiftLeft_eq, Nat.shiftLeft_eq]; omega

/-- The value of a format XY word. -/
theorem formatXY_toNat (o : BitVec 4) (x y : Reg) (n : BitVec 4) :
    (formatXY o x y n).toNat = 0x1000 * o.toNat + 0x100 * x.toNat + 0x10 * y.toNat + n.toNat := by
  have h1 := n.isLt
  have h2 := x.isLt
  have h3 := y.isLt
  simp only [formatXY, BitVec.toNat_append]
  rw [← Nat.shiftLeft_add_eq_or_of_lt h1, ← Nat.shiftLeft_add_eq_or_of_lt h3, ← Nat.shiftLeft_add_eq_or_of_lt h2, Nat.shiftLeft_eq, Nat.shiftLeft_eq, Nat.shiftLeft_eq]; omega

/-- The major opcode is the word's value divided by 0x1000. -/
theorem fieldO_toNat (w : Word) : (fieldO w).toNat = w.toNat / 0x1000 := by
  have := w.isLt
  simp [fieldO, Nat.shiftRight_eq_div_pow]
  omega

/-- The low digit is the word's value modulo 16. -/
theorem fieldN_toNat (w : Word) : (fieldN w).toNat = w.toNat % 16 := by simp [fieldN]

/-- The low byte is the word's value modulo 256. -/
theorem fieldKK_toNat (w : Word) : (fieldKK w).toNat = w.toNat % 256 := by simp [fieldKK]

/-- The low twelve bits are the word's value modulo 0x1000. -/
theorem fieldNNN_toNat (w : Word) : (fieldNNN w).toNat = w.toNat % 0x1000 := by simp [fieldNNN]

/-- A major opcode that is none of 0 to E is F. -/
theorem nibble_eq_F {o : BitVec 4} (h : ∀ k < 15, o ≠ BitVec.ofNat 4 k) : o = 0xF#4 := by
  have h1 := o.isLt
  by_contra hne
  have h2 : o.toNat ≠ 15 := fun e => hne (BitVec.eq_of_toNat_eq e)
  exact h o.toNat (by omega) (BitVec.eq_of_toNat_eq (by simp))

end Sys2Proof
end

