-- ==== Sys2Proof/Laws/PerInstr.lean ====
section
/-! SUPPORT. The family EncodesInTable: the word of every instruction matches a row of the opcode map (30_encoding.md R104),
one lemma per constructor. -/

namespace Sys2Proof.Laws.EncodesInTable

/-- The instruction's word is matched by the opcode map. -/
def Statement (i : Instr) : Prop := wordMatched (encode i) = true

/-- A word matches once one row of the map admits it. -/
theorem matched_of_row {w : Word} (r : OpcodeRow) (hr : r ∈ opcodeRows) (h : w &&& r.mask = r.pattern) :
    wordMatched w = true :=
  List.any_eq_true.2 ⟨r, hr, by simpa [OpcodeRow.admits] using h⟩

theorem matched_fixed (w : Word) (hr : ⟨w, 0xFFFF⟩ ∈ opcodeRows) : wordMatched w = true :=
  matched_of_row _ hr ((mask_all _).trans (formatA_fields _))

theorem matched_A (o : BitVec 4) (nnn : Addr) (hr : ⟨formatA o 0, 0xF000⟩ ∈ opcodeRows) :
    wordMatched (formatA o nnn) = true :=
  matched_of_row _ hr ((mask_o _).trans (by rw [fieldO_formatA]))

theorem matched_XK (o : BitVec 4) (x : Reg) (kk : Byte) (hr : ⟨formatA o 0, 0xF000⟩ ∈ opcodeRows) :
    wordMatched (formatXK o x kk) = true :=
  matched_of_row _ hr ((mask_o _).trans (by rw [fieldO_formatXK]))

theorem matched_XY (o : BitVec 4) (x y : Reg) (n : BitVec 4) (hr : ⟨formatXY o 0 0 n, 0xF00F⟩ ∈ opcodeRows) :
    wordMatched (formatXY o x y n) = true :=
  matched_of_row _ hr ((mask_o_n _).trans (by rw [fieldO_formatXY, fieldN_formatXY]))

theorem matched_XYN (o : BitVec 4) (x y : Reg) (n : BitVec 4) (hr : ⟨formatA o 0, 0xF000⟩ ∈ opcodeRows) :
    wordMatched (formatXY o x y n) = true :=
  matched_of_row _ hr ((mask_o _).trans (by rw [fieldO_formatXY]))

theorem matched_X (o : BitVec 4) (x : Reg) (kk : Byte) (hr : ⟨formatXK o 0 kk, 0xF0FF⟩ ∈ opcodeRows) :
    wordMatched (formatXK o x kk) = true :=
  matched_of_row _ hr ((mask_o_kk _).trans (by rw [fieldO_formatXK, fieldKK_formatXK]))

theorem cls : Statement .cls := matched_fixed _ (by decide)
theorem ret : Statement .ret := matched_fixed _ (by decide)
theorem jp (nnn : Addr) : Statement (.jp nnn) := matched_A _ _ (by decide)
theorem call (nnn : Addr) : Statement (.call nnn) := matched_A _ _ (by decide)
theorem seImm (x : Reg) (kk : Byte) : Statement (.seImm x kk) := matched_XK _ _ _ (by decide)
theorem sneImm (x : Reg) (kk : Byte) : Statement (.sneImm x kk) := matched_XK _ _ _ (by decide)
theorem seReg (x y : Reg) : Statement (.seReg x y) := matched_XY _ _ _ _ (by decide)
theorem ldImm (x : Reg) (kk : Byte) : Statement (.ldImm x kk) := matched_XK _ _ _ (by decide)
theorem addImm (x : Reg) (kk : Byte) : Statement (.addImm x kk) := matched_XK _ _ _ (by decide)
theorem ldReg (x y : Reg) : Statement (.ldReg x y) := matched_XY _ _ _ _ (by decide)
theorem orReg (x y : Reg) : Statement (.orReg x y) := matched_XY _ _ _ _ (by decide)
theorem andReg (x y : Reg) : Statement (.andReg x y) := matched_XY _ _ _ _ (by decide)
theorem xorReg (x y : Reg) : Statement (.xorReg x y) := matched_XY _ _ _ _ (by decide)
theorem addReg (x y : Reg) : Statement (.addReg x y) := matched_XY _ _ _ _ (by decide)
theorem subReg (x y : Reg) : Statement (.subReg x y) := matched_XY _ _ _ _ (by decide)
theorem shr (x y : Reg) : Statement (.shr x y) := matched_XY _ _ _ _ (by decide)
theorem subnReg (x y : Reg) : Statement (.subnReg x y) := matched_XY _ _ _ _ (by decide)
theorem shl (x y : Reg) : Statement (.shl x y) := matched_XY _ _ _ _ (by decide)
theorem sneReg (x y : Reg) : Statement (.sneReg x y) := matched_XY _ _ _ _ (by decide)
theorem ldI (nnn : Addr) : Statement (.ldI nnn) := matched_A _ _ (by decide)
theorem jpV0 (nnn : Addr) : Statement (.jpV0 nnn) := matched_A _ _ (by decide)
theorem rnd (x : Reg) (kk : Byte) : Statement (.rnd x kk) := matched_XK _ _ _ (by decide)
theorem drw (x y : Reg) (n : Count) : Statement (.drw x y n) := matched_XYN _ _ _ _ (by decide)
theorem skp (x : Reg) : Statement (.skp x) := matched_X _ _ _ (by decide)
theorem sknp (x : Reg) : Statement (.sknp x) := matched_X _ _ _ (by decide)
theorem ldVxDt (x : Reg) : Statement (.ldVxDt x) := matched_X _ _ _ (by decide)
theorem ldVxK (x : Reg) : Statement (.ldVxK x) := matched_X _ _ _ (by decide)
theorem ldDtVx (x : Reg) : Statement (.ldDtVx x) := matched_X _ _ _ (by decide)
theorem ldStVx (x : Reg) : Statement (.ldStVx x) := matched_X _ _ _ (by decide)
theorem addI (x : Reg) : Statement (.addI x) := matched_X _ _ _ (by decide)
theorem ldF (x : Reg) : Statement (.ldF x) := matched_X _ _ _ (by decide)
theorem ldB (x : Reg) : Statement (.ldB x) := matched_X _ _ _ (by decide)
theorem storeRegs (x : Reg) : Statement (.storeRegs x) := matched_X _ _ _ (by decide)
theorem loadRegs (x : Reg) : Statement (.loadRegs x) := matched_X _ _ _ (by decide)

end Sys2Proof.Laws.EncodesInTable
end

