-- ==== Sys2Proof/Laws/Step.lean ====
section
/-! SUPPORT. What a step can do, said once: its five cases, forward and as one inversion (40_cycle.md R130). -/

namespace Sys2Proof.Machine

/-- Every instruction has an effect: a meaning never stops the machine (40_cycle.md R138, R142). -/
theorem exec_eq_next (i : Instr) (s : State) : ∃ t, exec i s = .next t := by
  cases i <;> exact ⟨_, rfl⟩

theorem step_of_halted {s : State} (h : s.halted = true) : step s = .next s := by
  simp [step, State.cycle, h]

theorem step_of_waiting {s : State} (h : s.halted = false) (hw : s.waiting = true) :
    step s = .next s.sample.serviceWait := by
  simp [step, State.cycle, h, hw]

theorem step_of_running {s : State} (h : s.halted = false) (hw : s.waiting = false) :
    step s = s.sample.countdown.fetchExecute exec := by
  simp [step, State.cycle, h, hw]

/-- The word a step fetches: that of the bytes at pc in the state before it (sampling and counting touch neither). -/
theorem fetch_countdown (s : State) : s.sample.countdown.fetch = s.fetch := by
  simp [State.fetch]

theorem fetch_eq_some {s : State} (h : s.pc.toNat ≤ 0xFFE) :
    s.fetch = some (wordOfBytes (s.readByte s.pc.toNat) (s.readByte (s.pc.toNat + 1))) := by
  rw [State.fetch, if_neg (by omega)]

theorem fetch_eq_none {s : State} (h : 0xFFF ≤ s.pc.toNat) : s.fetch = none := by
  rw [State.fetch, if_pos (by omega)]

theorem step_of_fetch_fault {s : State} (h : s.halted = false) (hw : s.waiting = false) (hf : s.fetch = none) :
    step s = .next (s.sample.countdown.enterFault .memOutOfBounds s.pc 0) := by
  simp [step_of_running h hw, State.fetchExecute, fetch_countdown, hf]

theorem step_of_unmatched {s : State} (h : s.halted = false) (hw : s.waiting = false) {w : Word} {g : Unmatched}
    (hf : s.fetch = some w) (hd : decode w = .error g) : step s = .next s.sample.countdown.advance := by
  simp [step_of_running h hw, State.fetchExecute, fetch_countdown, hf, State.executeWord, hd]

theorem step_of_decoded {s : State} (h : s.halted = false) (hw : s.waiting = false) {w : Word} {i : Instr}
    (hf : s.fetch = some w) (hd : decode w = .ok i) : step s = exec i s.sample.countdown := by
  simp [step_of_running h hw, State.fetchExecute, fetch_countdown, hf, State.executeWord, hd]

/-- The cases of one step. -/
theorem step_cases {s t : State} (h : step s = .next t) :
    (s.halted = true ∧ t = s) ∨
    (s.halted = false ∧ s.waiting = true ∧ t = s.sample.serviceWait) ∨
    (s.halted = false ∧ s.waiting = false ∧ s.fetch = none ∧
      t = s.sample.countdown.enterFault .memOutOfBounds s.pc 0) ∨
    (s.halted = false ∧ s.waiting = false ∧ ∃ w g, s.fetch = some w ∧ decode w = .error g ∧
      t = s.sample.countdown.advance) ∨
    (s.halted = false ∧ s.waiting = false ∧ ∃ w i, s.fetch = some w ∧ decode w = .ok i ∧
      exec i s.sample.countdown = .next t) := by
  cases hh : s.halted with
  | true =>
    rw [step_of_halted hh] at h
    injection h with h
    exact .inl ⟨rfl, h.symm⟩
  | false =>
    cases hw : s.waiting with
    | true =>
      rw [step_of_waiting hh hw] at h
      injection h with h
      exact .inr (.inl ⟨rfl, rfl, h.symm⟩)
    | false =>
      cases hf : s.fetch with
      | none =>
        rw [step_of_fetch_fault hh hw hf] at h
        injection h with h
        exact .inr (.inr (.inl ⟨rfl, rfl, rfl, h.symm⟩))
      | some w =>
        cases hd : decode w with
        | error g =>
          rw [step_of_unmatched hh hw hf hd] at h
          injection h with h
          exact .inr (.inr (.inr (.inl ⟨rfl, rfl, w, g, rfl, hd, h.symm⟩)))
        | ok i =>
          rw [step_of_decoded hh hw hf hd] at h
          exact .inr (.inr (.inr (.inr ⟨rfl, rfl, w, i, rfl, hd, h⟩)))

/-- A word read back where it was placed (20_memory.md R71). -/
theorem fetch_writeBytes_pc (s : State) (w : Word) (h : s.pc.toNat ≤ 0xFFE) :
    (s.writeBytes s.pc.toNat [highByte w, lowByte w]).fetch = some w := by
  rw [fetch_eq_some (by simpa using h)]
  simp [State.readByte_writeBytes, wordOfBytes_bytes]

end Sys2Proof.Machine
end

