-- ==== Sys2Proof/Laws/Platform.lean ====
section
/-! SUPPORT. What a host action does to a session, and that a session runs no Load after the first step
(20_memory.md R91). -/

namespace Sys2Proof.Machine

/-- A Load after the first step is turned away. -/
theorem Session.load_of_stepped {p : Session} (h : p.stepped = true) (q : LoadRequest) :
    p.load q = .refused .loadAfterFirstStep := by
  rw [Session.load, if_pos h]

/-- Before the first step a Load is the core's Load. -/
theorem Session.load_of_not_stepped {p : Session} (h : p.stepped = false) (q : LoadRequest) :
    p.load q = Session.settle false (p.core.load q) := by
  rw [Session.load, if_neg (by simp [h])]

/-- A settled outcome is a next session only where the core's outcome is a next state. -/
theorem Session.settle_eq_next {b : Bool} {o : Host.Outcome State Fault Refusal} {p : Session}
    (h : Session.settle b o = .next p) : o = .next p.core ∧ p.stepped = b := by
  cases o with
  | next s =>
    injection h with h
    subst h
    exact ⟨rfl, rfl⟩
  | fault f => cases h
  | refused r => cases h

/-- Where a host action leads: a request to a step, a reset to a fresh session, a Load only before the
first step. -/
theorem Session.act_cases {p p' : Session} {a : HostAction} (h : p.act a = .next p') :
    (∃ inp, a = .request inp ∧ p'.stepped = true ∧ step (p.core.offer inp) = .next p'.core) ∨
    (a = .reset ∧ p' = Session.start p.core) ∨
    (∃ q, a = .load q ∧ p.stepped = false ∧ p'.stepped = false ∧ p.core.load q = .next p'.core) := by
  cases a with
  | request inp =>
    obtain ⟨h1, h2⟩ := Session.settle_eq_next h
    exact .inl ⟨inp, rfl, h2, h1⟩
  | reset =>
    injection h with h
    exact .inr (.inl ⟨rfl, h.symm⟩)
  | load q =>
    rw [Session.act] at h
    cases hs : p.stepped with
    | true =>
      rw [Session.load_of_stepped hs] at h
      cases h
    | false =>
      rw [Session.load_of_not_stepped hs] at h
      obtain ⟨h1, h2⟩ := Session.settle_eq_next h
      exact .inr (.inr ⟨q, rfl, rfl, h2, h1⟩)

/-- Whatever host actions a session goes through, none is a Load after the first step. -/
theorem Session.noLateLoad_of_run {as : List HostAction} {p p' : Session} (h : p.run as = .next p') :
    noLateLoad p.stepped as = true := by
  induction as generalizing p with
  | nil => rfl
  | cons a as ih =>
    rw [Session.run] at h
    cases ha : p.act a with
    | fault f => rw [ha] at h; cases h
    | refused r => rw [ha] at h; cases h
    | next p1 =>
      rw [ha] at h
      have hr := ih h
      rcases Session.act_cases ha with ⟨inp, rfl, h1, -⟩ | ⟨rfl, rfl⟩ | ⟨q, rfl, h0, h1, -⟩
      · rw [h1] at hr
        exact hr
      · exact hr
      · rw [h1] at hr
        rw [noLateLoad, h0, hr]
        rfl

end Sys2Proof.Machine
end

