-- ==== Sys2Proof/Tests/Slice0.lean ====
section
/-! SUPPORT. The model's own tests: decoding of words written out from the spec, the well-formedness smoke, single steps
from the vectors of spec/95_test_vectors.md and the examples of the instruction files, and a witness for the hypotheses of
every statement. -/

namespace Sys2Proof.Tests

open Sys2Proof Sys2Proof.Machine

/-! ## Helpers -/

/-- The start state of the vectors: reset, pc = 0x300, no key pressed and rnd = 0 in the step (95_test_vectors.md). -/
def base : State := { State.reset with pc := 0x300, inputs := [⟨0, 0⟩] }

/-- A word placed at pc. -/
def place (w : Word) (s : State) : State := s.writeBytes s.pc.toNat [highByte w, lowByte w]

/-- The state after one step, or the state itself if the step stops. -/
def after (s : State) : State :=
  match step s with
  | .next t => t
  | _ => s

/-- Set registers. -/
def setRegs (s : State) : List (Reg × Byte) → State
  | [] => s
  | (r, b) :: rs => setRegs (s.setReg r b) rs

/-- The fault record. -/
def record (s : State) : Bool × BitVec 3 × Word × Word × Word :=
  (s.halted, s.faultCode, s.faultPc, s.faultOpcode, s.faultInfo)

/-! ## Well-formedness: each check refuses an ill-formed term (30_encoding.md R113; 20_memory.md R90) -/

theorem test_word_refused_group0 : wordMatched 0x0123 = false := by decide
theorem test_word_refused_group5 : wordMatched 0x5121 = false := by decide
theorem test_word_refused_group8 : wordMatched 0x8018 = false := by decide
theorem test_word_refused_group9 : wordMatched 0x912F = false := by decide
theorem test_word_refused_groupE : wordMatched 0xE000 = false := by decide
theorem test_word_refused_groupF : wordMatched 0xFFFF = false := by decide
theorem test_word_admitted : wordMatched 0x8AB7 = true := by decide
theorem test_load_refused : LoadRequest.fits ⟨[1, 2], 4095⟩ = false := by decide
theorem test_load_admitted : LoadRequest.fits ⟨[1, 2], 4094⟩ = true := by decide

/-! ## Decoding: each row's word written out bit by bit from its encoding (30_encoding.md R102, R104) -/

theorem test_decode_cls : decode 0b0000000011100000#16 = .ok .cls := by decide
theorem test_decode_ret : decode 0b0000000011101110#16 = .ok .ret := by decide
theorem test_decode_jp : decode 0b0001001000110100#16 = .ok (.jp 0x234) := by decide
theorem test_decode_call : decode 0b0010101010111100#16 = .ok (.call 0xABC) := by decide
theorem test_decode_seImm : decode 0b0011001001000010#16 = .ok (.seImm 2 0x42) := by decide
theorem test_decode_sneImm : decode 0b0100111100000001#16 = .ok (.sneImm 0xF 0x01) := by decide
theorem test_decode_seReg : decode 0b0101000100100000#16 = .ok (.seReg 1 2) := by decide
theorem test_decode_ldImm : decode 0b0110001101000010#16 = .ok (.ldImm 3 0x42) := by decide
theorem test_decode_addImm : decode 0b0111000011111111#16 = .ok (.addImm 0 0xFF) := by decide
theorem test_decode_ldReg : decode 0b1000000100100000#16 = .ok (.ldReg 1 2) := by decide
theorem test_decode_orReg : decode 0b1000000100100001#16 = .ok (.orReg 1 2) := by decide
theorem test_decode_andReg : decode 0b1000000100100010#16 = .ok (.andReg 1 2) := by decide
theorem test_decode_xorReg : decode 0b1000000100100011#16 = .ok (.xorReg 1 2) := by decide
theorem test_decode_addReg : decode 0b1000000100100100#16 = .ok (.addReg 1 2) := by decide
theorem test_decode_subReg : decode 0b1000000100100101#16 = .ok (.subReg 1 2) := by decide
theorem test_decode_shr : decode 0b1000001101000110#16 = .ok (.shr 3 4) := by decide
theorem test_decode_subnReg : decode 0b1000000100100111#16 = .ok (.subnReg 1 2) := by decide
theorem test_decode_shl : decode 0b1000001101001110#16 = .ok (.shl 3 4) := by decide
theorem test_decode_sneReg : decode 0b1001000100100000#16 = .ok (.sneReg 1 2) := by decide
theorem test_decode_ldI : decode 0b1010001100000000#16 = .ok (.ldI 0x300) := by decide
theorem test_decode_jpV0 : decode 0b1011111111111111#16 = .ok (.jpV0 0xFFF) := by decide
theorem test_decode_rnd : decode 0b1100001000001111#16 = .ok (.rnd 2 0x0F) := by decide
theorem test_decode_drw : decode 0b1101000100100101#16 = .ok (.drw 1 2 5) := by decide
theorem test_decode_skp : decode 0b1110101010011110#16 = .ok (.skp 0xA) := by decide
theorem test_decode_sknp : decode 0b1110101010100001#16 = .ok (.sknp 0xA) := by decide
theorem test_decode_ldVxDt : decode 0b1111001100000111#16 = .ok (.ldVxDt 3) := by decide
theorem test_decode_ldVxK : decode 0b1111010100001010#16 = .ok (.ldVxK 5) := by decide
theorem test_decode_ldDtVx : decode 0b1111000000010101#16 = .ok (.ldDtVx 0) := by decide
theorem test_decode_ldStVx : decode 0b1111000000011000#16 = .ok (.ldStVx 0) := by decide
theorem test_decode_addI : decode 0b1111000100011110#16 = .ok (.addI 1) := by decide
theorem test_decode_ldF : decode 0b1111000000101001#16 = .ok (.ldF 0) := by decide
theorem test_decode_ldB : decode 0b1111000000110011#16 = .ok (.ldB 0) := by decide
theorem test_decode_storeRegs : decode 0b1111001101010101#16 = .ok (.storeRegs 3) := by decide
theorem test_decode_loadRegs : decode 0b1111001001100101#16 = .ok (.loadRegs 2) := by decide
theorem test_decodeTableWord : decodeTableWord 16 0xD125 = some (.drw 1 2 5) := by decide

/-! ## Single steps: the step and unmatched words (95_test_vectors.md V1, V7) -/

/-- ST1: a fetch at FFE is legal. -/
theorem test_ST1 : let t := after (place 0x6001 { base with pc := 0xFFE }); t.reg 0 = 1 ∧ t.pc = 0x1000 := by decide
/-- ST5 and TK12: an unmatched word only advances pc; both timers count down. -/
theorem test_ST5 : let t := after (place 0x0123 { base with dt := 1, st := 1 });
    t.pc = 0x302 ∧ t.dt = 0 ∧ t.st = 0 ∧ t.halted = false := by decide
/-- SQ1: a fetch at FFF faults and the countdown of the step stays; the next step is HALTED. -/
theorem test_SQ1 : let t := after { base with pc := 0xFFF, dt := 3, st := 1 };
    record t = (true, 3, 0xFFF, 0, 0xFFF) ∧ t.dt = 2 ∧ t.st = 0 ∧ (after t) = t ∧ t.result = .halted := by decide
/-- W5 step 4: keys 4, 5 and F pressed; the lowest wins, pc and DT stay. -/
theorem test_W5_step4 :
    let t := after { base with waiting := true, kreg := 2, pc := 0x202, dt := 4, inputs := [⟨0x8030, 0⟩] };
    t.reg 2 = 4 ∧ t.waiting = false ∧ t.pc = 0x202 ∧ t.dt = 4 := by decide
/-- W5 step 2: a wait step with no key changes nothing. -/
theorem test_W5_step2 : let t := after { base with waiting := true, kreg := 2, pc := 0x202, dt := 4 };
    t.reg 2 = 0 ∧ t.waiting = true ∧ t.pc = 0x202 ∧ t.dt = 4 := by decide
/-- A word placed for the next step runs as the first instruction after reset (R344 shows what reset alone fetches). -/
theorem test_withFetchWord : (after (State.reset.withFetchWord 16 0x6342)).reg 3 = 0x42 := by decide
/-- The checked view of a fault (60_exceptions.md R304). -/
theorem test_checked_underflow : (match checkedStep (place 0x00EE base) with
    | .fault .stackUnderflow => true | _ => false) = true := by decide

/-! ## Control flow (95_test_vectors.md V2) -/

theorem test_CF2_call_16th : let t := after (place 0x2400 { base with sp := 15 });
    t.sp = 16 ∧ t.stack[15] = 0x302 ∧ t.pc = 0x400 := by decide
theorem test_CF3_call_17th : let t := after (place 0x2400 { base with sp := 16 });
    record t = (true, 1, 0x300, 0x2400, 0x10) ∧ t.sp = 16 ∧ t.pc = 0x300 := by decide
theorem test_CF4_ret : let t := after (place 0x00EE { base with sp := 1, stack := base.stack.set 0 0x206 });
    t.sp = 0 ∧ t.pc = 0x206 := by decide
theorem test_CF5_ret_empty : let t := after (place 0x00EE base); record t = (true, 2, 0x300, 0x00EE, 0) ∧ t.sp = 0 := by
  decide
theorem test_CF6_jp_odd : (after (place 0x1333 base)).pc = 0x333 := by decide
theorem test_CF7_seImm : (after (place 0x3242 (base.setReg 2 0x42))).pc = 0x304 := by decide
theorem test_CF8_seImm : (after (place 0x3243 (base.setReg 2 0x42))).pc = 0x302 := by decide
theorem test_CF9_sneImm : (after (place 0x4200 (base.setReg 2 0x42))).pc = 0x304 := by decide
theorem test_CF10_sneImm : (after (place 0x4242 (base.setReg 2 0x42))).pc = 0x302 := by decide
theorem test_CF11_seReg_same : (after (place 0x5110 (base.setReg 1 0x99))).pc = 0x304 := by decide
theorem test_CF12_5xy1_noop : (after (place 0x5121 (setRegs base [(1, 7), (2, 7)]))).pc = 0x302 := by decide
theorem test_CF13_sneReg : (after (place 0x9120 (setRegs base [(1, 7), (2, 8)]))).pc = 0x304 := by decide
theorem test_CF14_sneReg : (after (place 0x9120 (setRegs base [(1, 7), (2, 7)]))).pc = 0x302 := by decide
theorem test_CF15_jpV0_exact : (after (place 0xBFFF (base.setReg 0 0xFF))).pc = 0x10FE := by decide
theorem test_CF16_jpV0 : (after (place 0xB300 (setRegs base [(0, 4), (3, 9)]))).pc = 0x304 := by decide

/-! ## ALU (95_test_vectors.md V3) -/

theorem test_AL1_ldImm : (after (place 0x6342 base)).reg 3 = 0x42 := by decide
theorem test_AL2_addImm : let t := after (place 0x7001 (setRegs base [(0, 0xFF), (0xF, 0x77)]));
    t.reg 0 = 0 ∧ t.reg 0xF = 0x77 := by decide
theorem test_AL3_addImm_VF : (after (place 0x7F01 (base.setReg 0xF 0xFF))).reg 0xF = 0 := by decide
theorem test_AL4_ldReg : (after (place 0x8010 (base.setReg 1 0x5A))).reg 0 = 0x5A := by decide
theorem test_AL5_or : let t := after (place 0x8011 (setRegs base [(0, 0xF0), (1, 0x0C), (0xF, 0x77)]));
    t.reg 0 = 0xFC ∧ t.reg 0xF = 0x77 := by decide
theorem test_AL6_and : let t := after (place 0x8012 (setRegs base [(0, 0xF0), (1, 0x3C), (0xF, 0x77)]));
    t.reg 0 = 0x30 ∧ t.reg 0xF = 0x77 := by decide
theorem test_AL7_xor_same : let t := after (place 0x8443 (setRegs base [(4, 0x3C), (0xF, 0x77)]));
    t.reg 4 = 0 ∧ t.reg 0xF = 0x77 := by decide
theorem test_R197_xor : (after (place 0x8013 (setRegs base [(0, 0xF0), (1, 0x3C)]))).reg 0 = 0xCC := by decide
theorem test_AL8_add_255 : let t := after (place 0x8014 (setRegs base [(0, 0xF0), (1, 0x0F), (0xF, 0x77)]));
    t.reg 0 = 0xFF ∧ t.reg 0xF = 0 := by decide
theorem test_AL11_add_VF : (after (place 0x8F14 (setRegs base [(0xF, 0x80), (1, 0x80)]))).reg 0xF = 1 := by decide
theorem test_AL14_sub_equal : let t := after (place 0x8015 (setRegs base [(0, 0x10), (1, 0x10), (0xF, 0x77)]));
    t.reg 0 = 0 ∧ t.reg 0xF = 0 := by decide
theorem test_AL15_sub_borrow : let t := after (place 0x8015 (setRegs base [(0, 1), (1, 0x10), (0xF, 0x77)]));
    t.reg 0 = 0xF1 ∧ t.reg 0xF = 0 := by decide
theorem test_AL17_shr_ignores_y : let t := after (place 0x8346 (setRegs base [(3, 0x80), (4, 0xFF), (0xF, 0x77)]));
    t.reg 3 = 0x40 ∧ t.reg 4 = 0xFF ∧ t.reg 0xF = 0 := by decide
theorem test_AL18_shr_VF : (after (place 0x8F06 (base.setReg 0xF 3))).reg 0xF = 1 := by decide
theorem test_AL19_subn : let t := after (place 0x8017 (setRegs base [(0, 1), (1, 0x10)]));
    t.reg 0 = 0x0F ∧ t.reg 0xF = 1 := by decide
theorem test_AL21_subn_borrow : let t := after (place 0x8017 (setRegs base [(0, 0x10), (1, 1), (0xF, 0x77)]));
    t.reg 0 = 0xF1 ∧ t.reg 0xF = 0 := by decide
theorem test_AL22_shl : let t := after (place 0x830E (base.setReg 3 0x80)); t.reg 3 = 0 ∧ t.reg 0xF = 1 := by decide
theorem test_AL23_shl : let t := after (place 0x830E (setRegs base [(3, 0x7F), (0xF, 0x77)]));
    t.reg 3 = 0xFE ∧ t.reg 0xF = 0 := by decide
theorem test_AL25_rnd : (after (place 0xC20F { base with inputs := [⟨0, 0xA7⟩] })).reg 2 = 0x07 := by decide
theorem test_AL26_rnd_0 : (after (place 0xC200 { base.setReg 2 5 with inputs := [⟨0, 0xA7⟩] })).reg 2 = 0 := by decide

/-! ## Index register and memory (95_test_vectors.md V4) -/

theorem test_IM1_ldI : (after (place 0xA300 base)).i = 0x300 := by decide
theorem test_IM3_addI_at_limit : let t := after (place 0xF11E { base.setReg 0xF 0x77 with i := 0xFFF });
    t.i = 0xFFF ∧ t.reg 0xF = 0 := by decide
theorem test_IM5_addI_wraps : let t := after (place 0xF11E { base.setReg 1 2 with i := 0xFFFF });
    t.i = 1 ∧ t.reg 0xF = 1 := by decide
theorem test_IM7_ldF : (after (place 0xF029 (base.setReg 0 0x0F))).i = 0x4B := by decide
theorem test_IM8_ldF_unmasked : (after (place 0xF029 (base.setReg 0 0xFF))).i = 0x4FB := by decide
theorem test_IM11_ldB : let t := after (place 0xF033 { base.setReg 0 0x7B with i := 0xFFD });
    t.readByte 0xFFD = 1 ∧ t.readByte 0xFFE = 2 ∧ t.readByte 0xFFF = 3 := by decide
theorem test_IM12_ldB_out : let t := after (place 0xF033 { base.setReg 0 0x7B with i := 0xFFE });
    record t = (true, 3, 0x300, 0xF033, 0xFFE) ∧ t.readByte 0xFFE = 0 := by decide
theorem test_IM13_storeRegs :
    let t := after (place 0xF355 { setRegs base [(0, 0x11), (1, 0x22), (2, 0x33), (3, 0x42)] with i := 0x400 });
    t.readByte 0x400 = 0x11 ∧ t.readByte 0x403 = 0x42 ∧ t.readByte 0x404 = 0 ∧ t.i = 0x400 := by decide
theorem test_IM15_storeRegs_out : record (after (place 0xFF55 { base with i := 0xFF1 })) =
    (true, 3, 0x300, 0xFF55, 0xFF1) := by decide
theorem test_IM16_loadRegs :
    let t := after (place 0xF265 (State.writeBytes { base with i := 0x400 } 0x400 [2, 5, 4, 9]));
    t.reg 0 = 2 ∧ t.reg 1 = 5 ∧ t.reg 2 = 4 ∧ t.reg 3 = 0 := by decide
theorem test_IM18_loadRegs_last :
    (after (place 0xFF65 (State.writeBytes { base with i := 0xFF0 } 0xFFF [0x5A]))).reg 0xF = 0x5A := by decide

/-! ## Display (95_test_vectors.md V5) -/

theorem test_DS1_cls : let t := after (place 0x00E0 base); t.changed = true ∧ t.fb = blankScreen := by decide
theorem test_DS2_cls : (after (place 0x00E0 { base with fb := togglePixel (togglePixel blankScreen 1 1) 63 31 })).fb = blankScreen := by
  decide
theorem test_DS3_drw_wraps :
    let t := after (place 0xD122 (State.writeBytes { setRegs base [(1, 0x3F), (2, 0x1F)] with i := 0x400 } 0x400
      [0xC0, 0x80]));
    t.fb = togglePixel (togglePixel (togglePixel blankScreen 0 31) 63 0) 63 31 ∧ t.reg 0xF = 0 ∧ t.changed = true := by decide
theorem test_DS5_drw_overlap :
    let t := after (place 0xD121 (State.writeBytes { base with i := 0x400, fb := togglePixel blankScreen 1 0 } 0x400 [0xC0]));
    t.fb = togglePixel blankScreen 0 0 ∧ t.reg 0xF = 1 := by decide

/-! ## Timers and keypad (95_test_vectors.md V6) -/

theorem test_TK1_skp : (after (place 0xE09E { base.setReg 0 0x0A with inputs := [⟨0x0400, 0⟩] })).pc = 0x304 := by decide
theorem test_TK5_skp_range : record (after (place 0xE09E (base.setReg 0 0x10))) = (true, 4, 0x300, 0xE09E, 0x10) := by
  decide
theorem test_TK3_sknp : (after (place 0xE0A1 (base.setReg 0 0x0A))).pc = 0x304 := by decide
theorem test_TK4_sknp : (after (place 0xE0A1 { base.setReg 0 0x0A with inputs := [⟨0x0400, 0⟩] })).pc = 0x302 := by decide
theorem test_TK6_ldVxDt : let t := after (place 0xF307 { base with dt := 5 }); t.reg 3 = 4 ∧ t.dt = 4 := by decide
theorem test_TK8_ldVxK : let t := after (place 0xF50A { base with inputs := [⟨0xFFFF, 0⟩] });
    t.waiting = true ∧ t.kreg = 5 ∧ t.pc = 0x302 ∧ t.reg 5 = 0 := by decide
theorem test_TK9_ldDtVx : (after (place 0xF015 { base.setReg 0 0x3C with dt := 9 })).dt = 0x3C := by decide
theorem test_TK10_ldStVx : let t := after (place 0xF018 (base.setReg 0 2));
    t.st = 2 ∧ t.result = .output ⟨blankScreen, false, true⟩ := by decide

/-! ## Reset and the host's side -/

/-- W7: the default font's glyph 5 at 0x019 (10_state.md R47). -/
theorem test_font_glyph5 : (List.range 5).map (fun k => State.reset.readByte (0x19 + k)) = [0xF0, 0x80, 0xF0, 0x10, 0xF0] := by
  decide
/-- R343: boot places the image at 0x200. -/
theorem test_boot : (match State.reset.boot [0x60, 0x05] with
    | .next t => t.readByte 0x200 == 0x60 && t.readByte 0x201 == 0x05 && t.pc == 0x200 | _ => false) = true := by decide
/-- SQ5: reset leaves the halted state. -/
theorem test_SQ5 : (after (place 0x00EE base)).assertReset.halted = false := by decide
/-- R91: a Load belongs before the first step. -/
theorem test_noLateLoad : noLateLoad false [.load ⟨[0x00], 0x200⟩, .request ⟨0, 0⟩] = true ∧
    noLateLoad false [.request ⟨0, 0⟩, .load ⟨[0x00], 0x200⟩] = false := by decide
/-- A host action requests a step with key 7 pressed while waiting (40_cycle.md R130, R132). -/
theorem test_act_request :
    (match Session.act ⟨{ base with waiting := true, kreg := 5 }, false⟩ (.request ⟨0x0480, 0⟩) with
    | .next p => p.core.reg 5 == 7 && !p.core.waiting && p.stepped | _ => false) = true := by decide
/-- R91, U12: a Load after the first step is turned away; reset admits it again. -/
theorem test_late_load : (match Session.run (Session.start base) [.load ⟨[0x00], 0x200⟩, .request ⟨0, 0⟩, .load ⟨[1], 0x200⟩] with
    | .refused r => r == .loadAfterFirstStep | _ => false) = true ∧
    (match Session.run (Session.start base) [.request ⟨0, 0⟩, .reset, .load ⟨[1], 0x200⟩] with
    | .next p => p.core.readByte 0x200 == 1 && !p.stepped | _ => false) = true := by decide
/-- `dbg_data` reads the record (10_state.md R60). -/
theorem test_dbg : let t := after (place 0x2400 { base with sp := 16 });
    t.dbgData 0 = 0x300 ∧ t.dbgData 1 = 0x2400 ∧ t.dbgData 2 = 0x10 ∧ t.dbgData 3 = 0 := by decide

/-! ## Witnesses: a concrete state and operands for the hypotheses of each statement, one per clause -/

theorem witness_EncodeDecode : decode 0x6342 = .ok (.ldImm 3 0x42) := by decide
theorem witness_DecodeMatchesMap : decode 0x00EE = .ok .ret ∧ decode 0x00EF = .error .group0 := by decide
theorem witness_StepRunsDecoded : let s := place 0x6342 { base with pc := 0xFFE };
    s.halted = false ∧ s.waiting = false ∧ s.pc.toNat ≤ 0xFFE ∧
    decodeBytes (s.readByte s.pc.toNat) (s.readByte (s.pc.toNat + 1)) = .ok (.ldImm 3 0x42) := by decide
theorem witness_StepUnmatched : let s := place 0x0123 base;
    s.halted = false ∧ s.waiting = false ∧ s.pc.toNat ≤ 0xFFE ∧
    decodeBytes (s.readByte s.pc.toNat) (s.readByte (s.pc.toNat + 1)) = .error .group0 := by decide
theorem witness_HaltedStep : (after (place 0x00EE base)).halted = true := by decide
theorem witness_FetchFault : let s : State := { base with pc := 0xFFF };
    s.halted = false ∧ s.waiting = false ∧ 0xFFF ≤ s.pc.toNat := by decide
theorem witness_WaitFindsKey : let s : State := { base with waiting := true, inputs := [⟨0x8000, 0⟩] };
    s.halted = false ∧ s.waiting = true ∧ s.nextInput.keys.getLsbD 15 = true ∧
    ∀ j < 15, s.nextInput.keys.getLsbD j = false := by decide
theorem witness_WaitFindsKey_none : let s : State := { base with waiting := true };
    s.halted = false ∧ s.waiting = true ∧ s.nextInput.keys = 0 := by decide
theorem witness_WaitStepPauses : let s : State := { base with waiting := true }; s.halted = false ∧ s.waiting = true := by
  decide
theorem witness_SnapshotFresh : base.halted = false ∧ ∃ t, step base = .next t :=
  ⟨by decide, _, step_of_running (by decide) (by decide)⟩
theorem witness_TimersCount : let s := place 0x0123 base;
    s.halted = false ∧ s.waiting = false ∧ (∃ t, step s = .next t) ∧
    (∀ x w, s.fetch = some w → decode w ≠ .ok (.ldDtVx x)) ∧ (∀ x w, s.fetch = some w → decode w ≠ .ok (.ldStVx x)) := by
  have hf : (place 0x0123 base).fetch = some 0x0123 := by decide
  refine ⟨by decide, by decide, ⟨_, step_of_unmatched (by decide) (by decide) hf (g := .group0) (by decide)⟩, ?_, ?_⟩
  · intro x w h; rw [hf] at h; cases h; exact fun e => nomatch (show Except.error Unmatched.group0 = _ from e)
  · intro x w h; rw [hf] at h; cases h; exact fun e => nomatch (show Except.error Unmatched.group0 = _ from e)
/-- Two inputs: the step takes the first and leaves the second (40_cycle.md R130, R141). -/
theorem test_input_consumed : (after { base with inputs := [⟨1, 2⟩, ⟨3, 4⟩] }).inputs = [⟨3, 4⟩] := by decide
theorem witness_DirtyFlag : base.halted = false ∧ ∃ t, step base = .next t := witness_SnapshotFresh
theorem witness_OutputRecord : ∃ t, step (place 0x00E0 base) = .next t ∧ t.halted = false :=
  ⟨_, step_of_decoded (i := .cls) (w := 0x00E0) (by decide) (by decide) (by decide) (by decide), by decide⟩
theorem witness_FetchWordRuns : decodeTableWord 16 0x6342 = some (.ldImm 3 0x42) := by decide
theorem witness_StepKeepsInv : State.reset.Inv ∧ ∃ t, step State.reset = .next t :=
  ⟨⟨⟨List.Pairwise.nil, fun _ h => nomatch h⟩, ⟨fun _ => ⟨rfl, rfl, rfl, rfl⟩, fun h => nomatch h⟩,
    ⟨by decide, fun _ h => absurd h (Nat.not_lt_zero _)⟩⟩, _, step_of_running rfl rfl⟩
theorem witness_FaultExactly : base.halted = false ∧ ∃ t, exec .ret base = .next t := ⟨by decide, exec_eq_next _ _⟩
theorem witness_FaultPrecise_ret : FaultWhen base .ret := by show base.sp.val = 0; decide
theorem witness_FaultPrecise_call : FaultWhen { base with sp := 16 } (.call 0x400) := by
  show (16 : Fin 17).val = 16; decide
theorem witness_FaultPrecise_skp : FaultWhen (base.setReg 0 0x10) (.skp 0) := by
  show 0x0F < ((base.setReg 0 0x10).reg 0).toNat; decide
theorem witness_FaultPrecise_sknp : FaultWhen (base.setReg 0 0x10) (.sknp 0) := witness_FaultPrecise_skp
theorem witness_FaultPrecise_ldB : FaultWhen { base with i := 0xFFE } (.ldB 0) := by
  show 0xFFF < (0xFFE : Word).toNat + 2; decide
theorem witness_FaultPrecise_storeRegs : FaultWhen { base with i := 0xFF1 } (.storeRegs 0xF) := by
  show 0xFFF < (0xFF1 : Word).toNat + (0xF : Reg).toNat; decide
theorem witness_FaultPrecise_loadRegs : FaultWhen { base with i := 0xFF1 } (.loadRegs 0xF) :=
  witness_FaultPrecise_storeRegs
theorem witness_FaultPrecise_drw : FaultWhen { base with i := 0xFFF } (.drw 1 2 2) := by
  show 0 < (2 : Count).toNat ∧ 0xFFF < (0xFFF : Word).toNat + (2 : Count).toNat - 1; decide
theorem witness_RegistersWritten : (∃ t, exec (.loadRegs 2) base = .next t) ∧ ¬ WritesReg 3 (.loadRegs 2) :=
  ⟨exec_eq_next _ _, by show ¬ ((3 : Reg).toNat ≤ (2 : Reg).toNat); decide⟩
theorem witness_MemoryWritten : (∃ t, exec (.storeRegs 2) base = .next t) ∧ ¬ StoresTo base 0x203 (.storeRegs 2) :=
  ⟨exec_eq_next _ _, by show ¬ (base.i.toNat ≤ 0x203 ∧ 0x203 < base.i.toNat + ((2 : Reg).toNat + 1)); decide⟩
theorem witness_IndexWritten : (∃ t, exec (.storeRegs 2) base = .next t) ∧ (∀ nnn, Instr.storeRegs 2 ≠ .ldI nnn) ∧
    (∀ x, Instr.storeRegs 2 ≠ .addI x) ∧ ∀ x, Instr.storeRegs 2 ≠ .ldF x :=
  ⟨exec_eq_next _ _, by simp, by simp, by simp⟩
theorem witness_DisplayWritten : (∃ t, exec .ret base = .next t) ∧ Instr.ret ≠ .cls ∧ ∀ x y n, Instr.ret ≠ .drw x y n :=
  ⟨exec_eq_next _ _, by decide, fun _ _ _ h => nomatch h⟩
theorem witness_StackWritten : (∃ t, exec .cls base = .next t) ∧ Instr.cls ≠ .ret ∧ ∀ nnn, Instr.cls ≠ .call nnn :=
  ⟨exec_eq_next _ _, by decide, fun _ h => nomatch h⟩
theorem witness_TimersWritten : (∃ t, exec .cls base = .next t) ∧ (∀ x, Instr.cls ≠ .ldDtVx x) ∧
    ∀ x, Instr.cls ≠ .ldStVx x := ⟨exec_eq_next _ _, by simp, by simp⟩
theorem witness_LatchWritten : (∃ t, exec .cls base = .next t) ∧ ∀ x, Instr.cls ≠ .ldVxK x :=
  ⟨exec_eq_next _ _, fun _ h => nomatch h⟩
theorem witness_PcTransition : ¬ FaultWhen base (.jp 0x234) ∧ FaultWhen base .ret ∧ decode 0x5121 = .error .group5 ∧
    ({ base with waiting := true } : State).halted = false ∧ ({ base with waiting := true } : State).waiting = true ∧
    base.halted = false ∧ base.waiting = false ∧ 0xFFF ≤ ({ base with pc := 0xFFF } : State).pc.toNat :=
  ⟨id, witness_FaultPrecise_ret, by decide, by decide, by decide, by decide, by decide, by decide⟩
theorem witness_SkipRegister : (1 : BitVec 4) ≠ 0 := by decide
theorem witness_InputsRead : (∃ t, exec .cls base = .next t) ∧ (∀ x, Instr.cls ≠ .skp x) ∧ (∀ x, Instr.cls ≠ .sknp x) ∧
    ∀ x kk, Instr.cls ≠ .rnd x kk := ⟨exec_eq_next _ _, by simp, by simp, by simp⟩
theorem witness_RetReturns : 0 < ({ base with sp := 16 } : State).sp.val ∧ base.sp.val = 0 := by decide
theorem witness_CallPushes : ({ base with sp := 15 } : State).sp.val < 16 ∧ ({ base with sp := 16 } : State).sp.val = 16 := by
  decide
theorem witness_CallReturn : ({ base with sp := 15 } : State).sp.val < 16 := by decide
theorem witness_AddCarry : (0 : Reg) ≠ VF := by decide
theorem witness_SubtractNotBorrow : (0xE : Reg) ≠ VF := by decide
theorem witness_ShiftsByOne : (3 : Reg) ≠ VF := by decide
theorem witness_StoreDecimal : (0xFFD : Word).toNat + 2 ≤ 0xFFF ∧ 0xFFF < (0xFFE : Word).toNat + 2 := by decide
theorem witness_StoreRegisters : (0xFF0 : Word).toNat + (0xF : Reg).toNat ≤ 0xFFF ∧
    0xFFF < (0xFF1 : Word).toNat + (0xF : Reg).toNat := by decide
theorem witness_LoadRegisters : (0xFF0 : Word).toNat + (0xF : Reg).toNat ≤ 0xFFF ∧
    0xFFF < (0xFF1 : Word).toNat + (0xF : Reg).toNat := by decide
theorem witness_StoreThenFetch : ¬ FaultWhen { base with i := 0xFFD } (.ldB 1) ∧
    ¬ FaultWhen { base with i := 0xFFF } (.storeRegs 0) ∧ (0xFFE : Word).toNat ≤ 0xFFE ∧
    decodeBytes (byteAfter base 0x300 (.storeRegs 0)) (byteAfter base 0x301 (.storeRegs 0)) = .error .group0 ∧
    let s := (base.setReg 0 0x60).setReg 1 0x05; let t : State := { s with i := 0x302 };
    decodeBytes (byteAfter t 0x302 (.storeRegs 1)) (byteAfter t 0x303 (.storeRegs 1)) = .ok (.ldImm 0 5) ∧
    t.halted = false ∧ t.waiting = false :=
  ⟨by show ¬ (0xFFF < (0xFFD : Word).toNat + 2); decide,
   by show ¬ (0xFFF < (0xFFF : Word).toNat + (0 : Reg).toNat); decide, by decide, by decide, by decide, by decide, by decide⟩
theorem witness_DrawSprite : ¬ FaultWhen { base with i := 0xFFE } (.drw 1 2 2) ∧
    FaultWhen { base with i := 0xFFF } (.drw 1 2 2) :=
  ⟨by show ¬ (0 < (2 : Count).toNat ∧ 0xFFF < (0xFFE : Word).toNat + (2 : Count).toNat - 1); decide,
   witness_FaultPrecise_drw⟩
/-- A drawing with no row never faults, even with I past memory (44_display.md R262). -/
theorem witness_DrawSprite_no_rows : ¬ FaultWhen { base with i := 0xFFFF } (.drw 1 2 0) := by
  show ¬ (0 < (0 : Count).toNat ∧ 0xFFF < (0xFFFF : Word).toNat + (0 : Count).toNat - 1); decide
/-- Glyph 0 on a clear screen: the draw does not fault, the sprite's pixels are clear before it, and the state after it is one
the second draw may start from. -/
theorem witness_DrawTwice : let s : State := { base with i := 0 };
    ¬ FaultWhen s (.drw 1 2 5) ∧ (∀ px py, px < 64 → py < 32 → SpriteLit s 1 2 5 px py → pixel s.fb px py = false) ∧
    ∃ t, exec (.drw 1 2 5) s = .next t ∧ t.i = s.i ∧ SameMemory s t ∧ t.reg 1 = s.reg 1 ∧ t.reg 2 = s.reg 2 := by
  refine ⟨by show ¬ (0 < (5 : Count).toNat ∧ 0xFFF < (0 : Word).toNat + (5 : Count).toNat - 1); decide, fun px py _ hy _ => ?_,
    ({ base with i := 0 } : State).present (State.drawing { base with i := 0 } 1 2 5) |>.advance, rfl, rfl,
    fun _ => rfl, rfl, rfl⟩
  simp [pixel, base, State.reset, State.resetWith, hy]
theorem witness_ClearThenDraw : ¬ FaultWhen { base with i := 0xFFE } (.drw 1 2 2) := witness_DrawSprite.1
theorem witness_SkipKey : ((base.setReg 0 0x0F).reg 0).toNat ≤ 0x0F ∧ 0x0F < ((base.setReg 0 0x10).reg 0).toNat := by decide
theorem witness_HostLoad : let q : LoadRequest := ⟨[1, 2], 4094⟩; let r : LoadRequest := ⟨[1, 2], 4095⟩;
    q.offset + q.bytes.length ≤ 4096 ∧ 4096 < r.offset + r.bytes.length ∧ (Session.start base).stepped = false ∧
    (⟨base, true⟩ : Session).stepped = true ∧ ∃ p', (Session.start base).act (.request ⟨0, 0⟩) = .next p' :=
  have h : step ((Session.start base).core.offer ⟨0, 0⟩) = .next _ :=
    step_of_unmatched (w := 0) (g := .group0) (by decide) (by decide) (by decide) (by decide)
  ⟨by decide, by decide, rfl, rfl, _, by rw [Session.act, h]; rfl⟩

end Sys2Proof.Tests
end

section
/-! PROOFS. The values the source states for reset (10_state.md R34, R39, R41). -/

namespace Sys2Proof.Machine

/-! ### `State.resetWith` and `State.assertReset`: what reset leaves in V, pc and I -/

@[simp] theorem State.resetWith_reg (p : Params) (r : Reg) : (State.resetWith p).reg r = 0 :=
  Vector.getElem_replicate r.isLt
@[simp] theorem State.resetWith_pc (p : Params) : (State.resetWith p).pc = 0x200 := rfl
@[simp] theorem State.resetWith_i (p : Params) : (State.resetWith p).i = 0x200 := rfl

/-- Asserting reset touches the registers as `State.resetWith` does: the inputs it keeps are none of them. -/
@[simp] theorem State.assertReset_reg (s : State) (r : Reg) : s.assertReset.reg r = 0 :=
  State.resetWith_reg s.params r
@[simp] theorem State.assertReset_pc (s : State) : s.assertReset.pc = 0x200 := rfl
@[simp] theorem State.assertReset_i (s : State) : s.assertReset.i = 0x200 := rfl

/-- The first fetch after reset reads the bytes at 0x200 and 0x201 (40_cycle.md R135). -/
theorem fetch_assertReset (s : State) :
    s.assertReset.fetch = some (wordOfBytes (s.assertReset.readByte 0x200) (s.assertReset.readByte 0x201)) := by
  have hpc : s.assertReset.pc.toNat = 0x200 := by simp
  have hroom : s.assertReset.pc.toNat ≤ 0xFFE := by omega
  rw [fetch_eq_some hroom, hpc]

/-- Settles O18: registers, pc and I of the reset state, and the fetch its pc allows. -/
theorem resetValues : Obligations.ResetValues := by
  intro s
  exact ⟨s.assertReset_reg, s.assertReset_pc, s.assertReset_i, fetch_assertReset s,
    State.resetWith_pc paramsDefault, State.resetWith_i paramsDefault, State.resetWith_reg paramsDefault⟩

end Sys2Proof.Machine
end

section
/-! PROOFS. The keypad wait (40_cycle.md R132, R133): what the wait service writes, and what a wait step leaves. -/

namespace Sys2Proof.Machine

/-! ### `State.serviceWait`: the registers and the latch, key or no key (R132) -/

theorem State.serviceWait_of_key {s : State} {k : Nat} (h : firstKey s.keypad = some k) :
    s.serviceWait = { s.setReg s.kreg (BitVec.ofNat 8 k) with waiting := false } := by
  simp [State.serviceWait, h]

theorem State.serviceWait_of_no_key {s : State} (h : firstKey s.keypad = none) : s.serviceWait = s := by
  simp [State.serviceWait, h]

theorem State.reg_serviceWait_of_key {s : State} {k : Nat} (h : firstKey s.keypad = some k) (q : Reg) :
    s.serviceWait.reg q = if q = s.kreg then BitVec.ofNat 8 k else s.reg q := by
  rw [State.serviceWait_of_key h]
  exact State.reg_setReg s s.kreg q _

/-- Key or no key, the wait service writes no register but V[kreg]. -/
theorem State.reg_serviceWait_of_ne {s : State} {q : Reg} (hq : q ≠ s.kreg) : s.serviceWait.reg q = s.reg q := by
  cases h : firstKey s.keypad with
  | none => rw [State.serviceWait_of_no_key h]
  | some k => rw [State.reg_serviceWait_of_key h, if_neg hq]

theorem sameRegsBut_kreg_sample_serviceWait (s : State) : SameRegsBut [s.kreg] s s.sample.serviceWait :=
  fun _ hq => State.reg_serviceWait_of_ne (List.ne_of_not_mem_cons hq)

/-- Settles O10: the wait service on the sampled keypad, by whether its scan finds a key. -/
theorem waitFindsKey : Obligations.WaitFindsKey := by
  intro s hh hw
  refine ⟨_, step_of_waiting hh hw, fun k hk hkey hlow => ?_, fun hnone => ?_⟩
  · have hfirst : firstKey s.sample.keypad = some k := (firstKey_eq_some _ k).mpr ⟨hk, hkey, hlow⟩
    have hreg : s.sample.serviceWait.reg s.kreg = BitVec.ofNat 8 k := by
      simp [State.reg_serviceWait_of_key hfirst]
    refine ⟨?_, by rw [State.serviceWait_of_key hfirst], sameRegsBut_kreg_sample_serviceWait s⟩
    rw [hreg, BitVec.toNat_ofNat, Nat.mod_eq_of_lt (by omega)]
  · have hfirst : firstKey s.sample.keypad = none := (firstKey_eq_none _).mpr hnone
    rw [State.serviceWait_of_no_key hfirst]
    exact ⟨s.reg_sample, hw⟩

/-- The output record of a step that does not end halted (R140). -/
theorem State.result_of_not_halted {s : State} (h : s.halted = false) :
    s.result = .output { fb := s.fb, changed := s.changed, beep := decide (0 < s.st.toNat) } := by
  simp [State.result, h]

/-- Settles O11: sampling and the wait service leave the rest of the state, whichever way the scan went. -/
theorem waitStepPauses : Obligations.WaitStepPauses := by
  intro s hh hw
  have hmem : SameMemory s s.sample.serviceWait := fun a => by simp
  have hfault : SameFault s s.sample.serviceWait := by simp [SameFault]
  have hout : s.sample.serviceWait.result =
      .output { fb := s.fb, changed := false, beep := decide (0 < s.st.toNat) } := by
    simp [State.result_of_not_halted, hh]
  refine ⟨_, step_of_waiting hh hw, ?_⟩
  simp [SameTimers, SameIndex, SameStack, sameRegsBut_kreg_sample_serviceWait, hmem, hfault, hout]

end Sys2Proof.Machine
end

section
/-! PROOFS. Jump, immediate skips, and a call with its return (41_control_flow.md R161, R163, R164, R169). -/

namespace Sys2Proof.Machine

/-! ### The meaning of each instruction, and of 2nnn and 00EE where they do not fault -/

theorem exec_jp (nnn : Addr) (s : State) : exec (.jp nnn) s = .next (s.jump (zextAddr nnn)) := rfl

theorem exec_seImm (x : Reg) (kk : Byte) (s : State) :
    exec (.seImm x kk) s = .next (s.skipWhen (s.reg x == kk)) :=
  rfl

theorem exec_sneImm (x : Reg) (kk : Byte) (s : State) :
    exec (.sneImm x kk) s = .next (s.skipWhen (s.reg x != kk)) :=
  rfl

theorem exec_call_of_lt {s : State} (nnn : Addr) (h : s.sp.val < 16) :
    exec (.call nnn) s = .next ((s.push (s.pc + 2)).jump (zextAddr nnn)) := by
  have hroom : s.sp ≠ 16 := fun e => by have := (s.sp_eq_sixteen_iff).mp e; omega
  simp [exec, execCall, hroom]

theorem exec_ret_of_pos {s : State} (h : 0 < s.sp.val) : exec .ret s = .next (s.pop.jump s.topOfStack) := by
  have hsome : s.sp ≠ 0 := fun e => by have := (s.sp_eq_zero_iff).mp e; omega
  simp [exec, execRet, hsome]

/-! ### What a jump and a conditional skip leave unchanged: all but pc -/

theorem State.jump_frame (s : State) (a : Word) :
    SameRegs s (s.jump a) ∧ SameMemory s (s.jump a) ∧ SameIndex s (s.jump a) ∧ SameRest s (s.jump a) := by
  simp [SameRegs, SameMemory, SameIndex, SameRest, SameTimers, SameStack, SameDisplay, SameKeypad, SameFault,
    SameInputs]

/-- A skip is the jump to the address SKIP or NEXT gives. -/
theorem State.skipWhen_frame (s : State) (c : Bool) :
    SameRegs s (s.skipWhen c) ∧ SameMemory s (s.skipWhen c) ∧ SameIndex s (s.skipWhen c) ∧
      SameRest s (s.skipWhen c) :=
  s.jump_frame (s.pc + (if c then 4 else 2))

/-- SKIP or NEXT by the condition the tested Boolean stands for (40_cycle.md R139). -/
theorem State.skipWhen_pc_of_iff (s : State) {c : Bool} {p : Prop} [Decidable p] (h : c = true ↔ p) :
    (s.skipWhen c).pc = if p then s.pc + 4 else s.pc + 2 := by
  rw [State.skipWhen_pc, apply_ite (s.pc + ·)]
  exact if_congr h rfl rfl

/-! ### Stack reads depend on the stack and the depth alone -/

theorem topOfStack_of_sameStack {s t : State} (h : SameStack s t) : t.topOfStack = s.topOfStack := by
  obtain ⟨hsp, hstack⟩ := h
  simp [State.topOfStack, hsp, hstack]

theorem pop_sp_of_sameStack {s t : State} (h : SameStack s t) : t.pop.sp = s.pop.sp := by
  obtain ⟨hsp, -⟩ := h
  exact Fin.ext (by simp [hsp])

/-- Settles O39: 00EE reads back what 2nnn pushed, from any state with the stack 2nnn left. -/
theorem callReturn : Obligations.CallReturn := by
  intro nnn s hroom
  refine ⟨_, exec_call_of_lt nnn hroom, fun r => by simp, fun a => by simp, fun t' hsame => ?_⟩
  have hpushed : SameStack (s.push (s.pc + 2)) t' := hsame
  obtain ⟨htop, hdepth⟩ := s.topOfStack_push (s.pc + 2) hroom
  obtain ⟨hsp, -⟩ := s.push_of_lt (s.pc + 2) hroom
  have hpos : 0 < t'.sp.val := by
    obtain ⟨hsame_sp, -⟩ := hpushed
    rw [hsame_sp, hsp]
    exact Nat.succ_pos _
  refine ⟨_, exec_ret_of_pos hpos, ?_, ?_, fun r => by simp, fun a => by simp⟩
  · rw [State.jump_pc, topOfStack_of_sameStack hpushed, htop]
  · rw [State.jump_sp, pop_sp_of_sameStack hpushed, hdepth]

/-- Settles O34: the target is the 12-bit operand extended to a word, and a jump writes pc alone. -/
theorem jumpsTo : Obligations.JumpsTo := by
  intro nnn s
  obtain ⟨hregs, hmem, hindex, hrest⟩ := s.jump_frame (zextAddr nnn)
  exact ⟨_, exec_jp nnn s, zextAddr_toNat nnn, hregs, hmem, hindex, hrest, formatA_toNat 1 nnn⟩

/-- Settles O37: each skip's test as the equality it decides, and its word by its format's value. -/
theorem skipImmediate : Obligations.SkipImmediate := by
  intro x kk s
  have heq : (s.reg x == kk) = true ↔ s.reg x = kk := beq_iff_eq
  have hne : (s.reg x != kk) = true ↔ s.reg x ≠ kk := bne_iff_ne
  exact ⟨⟨_, exec_seImm x kk s, s.skipWhen_pc_of_iff heq, s.skipWhen_frame _⟩,
    ⟨_, exec_sneImm x kk s, s.skipWhen_pc_of_iff hne, s.skipWhen_frame _⟩,
    formatXK_toNat 3 x kk, formatXK_toNat 4 x kk⟩

end Sys2Proof.Machine
end

section
/-! PROOFS. The instructions that write V[x] and no flag: load, add immediate, copy (42_alu.md R192, R193, R194). -/

namespace Sys2Proof.Machine

/-! ### The meaning of each instruction: one register write, then NEXT -/

theorem exec_ldImm (x : Reg) (kk : Byte) (s : State) : exec (.ldImm x kk) s = .next (s.setReg x kk).advance := rfl

theorem exec_addImm (x : Reg) (kk : Byte) (s : State) :
    exec (.addImm x kk) s = .next (s.setReg x (s.reg x + kk)).advance :=
  rfl

theorem exec_ldReg (x y : Reg) (s : State) : exec (.ldReg x y) s = .next (s.setReg x (s.reg y)).advance := rfl

/-! ### `State.setReg` followed by NEXT: the register written, and the frame -/

theorem State.reg_setReg_self (s : State) (x : Reg) (b : Byte) : (s.setReg x b).reg x = b := by
  rw [State.reg_setReg, if_pos rfl]

theorem State.reg_setReg_of_ne (s : State) {x q : Reg} (b : Byte) (hq : q ≠ x) : (s.setReg x b).reg q = s.reg q := by
  rw [State.reg_setReg, if_neg hq]

theorem State.reg_setReg_advance_self (s : State) (x : Reg) (b : Byte) : (s.setReg x b).advance.reg x = b := by
  rw [State.reg_advance, State.reg_setReg_self]

/-- One register write and NEXT: VF too is kept when it is not the destination. -/
theorem State.onlyRegs_setReg_advance (s : State) (x : Reg) (b : Byte) : OnlyRegs [x] s (s.setReg x b).advance := by
  have hregs : SameRegsBut [x] s (s.setReg x b).advance := fun _ hq =>
    s.reg_setReg_of_ne b (List.ne_of_not_mem_cons hq)
  have hmem : SameMemory s (s.setReg x b).advance := fun a => by simp
  have hrest : SameRest s (s.setReg x b).advance := by
    simp [SameRest, SameTimers, SameStack, SameDisplay, SameKeypad, SameFault, SameInputs]
  exact ⟨rfl, hregs, hmem, rfl, hrest⟩

/-- Settles O40: each instruction is one register write and NEXT, and each word is its format's value. -/
theorem loadAddCopy : Obligations.LoadAddCopy := by
  intro x y kk s
  have hsum : ((s.setReg x (s.reg x + kk)).advance.reg x).toNat = ((s.reg x).toNat + kk.toNat) % 256 := by
    rw [State.reg_setReg_advance_self, BitVec.toNat_add]
  exact ⟨⟨_, exec_ldImm x kk s, s.reg_setReg_advance_self x kk, s.onlyRegs_setReg_advance x kk⟩,
    ⟨_, exec_addImm x kk s, hsum, s.onlyRegs_setReg_advance x _⟩,
    ⟨_, exec_ldReg x y s, s.reg_setReg_advance_self x _, s.onlyRegs_setReg_advance x _⟩,
    formatXK_toNat 6 x kk, formatXK_toNat 7 x kk, formatXY_toNat 8 x y 0⟩

end Sys2Proof.Machine
end

section
/-! PROOFS. Loading the index register (43_index_memory.md R231). -/

namespace Sys2Proof.Machine

theorem exec_ldI (nnn : Addr) (s : State) :
    exec (.ldI nnn) s = .next ({ s with i := zextAddr nnn } : State).advance :=
  rfl

/-! ### A write to I: no register and no byte of memory reads differently, and the frame with NEXT -/

@[simp] theorem State.reg_with_i (s : State) (a : Word) (r : Reg) : ({ s with i := a } : State).reg r = s.reg r := rfl

@[simp] theorem State.readByte_with_i (s : State) (a : Word) (k : Nat) :
    ({ s with i := a } : State).readByte k = s.readByte k :=
  rfl

/-- Whatever word I takes, a write to it and NEXT change only I and pc. -/
theorem State.with_i_advance_frame (s : State) (a : Word) :
    SameRegs s ({ s with i := a } : State).advance ∧ SameMemory s ({ s with i := a } : State).advance ∧
      SameRest s ({ s with i := a } : State).advance := by
  have hregs : SameRegs s ({ s with i := a } : State).advance := fun r => by simp
  have hmem : SameMemory s ({ s with i := a } : State).advance := fun k => by simp
  have hrest : SameRest s ({ s with i := a } : State).advance := by
    simp [SameRest, SameTimers, SameStack, SameDisplay, SameKeypad, SameFault, SameInputs]
  exact ⟨hregs, hmem, hrest⟩

/-- Settles O46: I takes the 12-bit operand extended to a word, and the instruction's word is its format's value. -/
theorem loadIndex : Obligations.LoadIndex := by
  intro nnn s
  obtain ⟨hregs, hmem, hrest⟩ := s.with_i_advance_frame (zextAddr nnn)
  exact ⟨_, exec_ldI nnn s, zextAddr_toNat nnn, State.advance_pc _, hregs, hmem, hrest, formatA_toNat 0xA nnn⟩

end Sys2Proof.Machine
end

section
/-! PROOFS. Clearing the screen (44_display.md R260). -/

namespace Sys2Proof.Machine

theorem exec_cls (s : State) : exec .cls s = .next ({ s with fb := blankScreen, changed := true } : State).advance :=
  rfl

/-! ### A write to the display: no register and no byte of memory reads differently, and the frame with NEXT -/

@[simp] theorem State.reg_with_display (s : State) (f : Framebuffer) (c : Bool) (r : Reg) :
    ({ s with fb := f, changed := c } : State).reg r = s.reg r :=
  rfl

@[simp] theorem State.readByte_with_display (s : State) (f : Framebuffer) (c : Bool) (k : Nat) :
    ({ s with fb := f, changed := c } : State).readByte k = s.readByte k :=
  rfl

/-- Whatever the framebuffer and the dirty flag take, a write to them and NEXT change only them and pc. -/
theorem State.with_display_advance_frame (s : State) (f : Framebuffer) (c : Bool) :
    let t := ({ s with fb := f, changed := c } : State).advance
    SameRegs s t ∧ SameMemory s t ∧ SameIndex s t ∧ SameTimers s t ∧ SameStack s t ∧ SameKeypad s t ∧
      SameFault s t ∧ SameInputs s t := by
  intro t
  have hregs : SameRegs s t := fun r => by simp [t]
  have hmem : SameMemory s t := fun k => by simp [t]
  refine ⟨hregs, hmem, ?_⟩
  simp [t, SameIndex, SameTimers, SameStack, SameKeypad, SameFault, SameInputs]

/-- Settles O53: a cleared display reads 0 at every pixel, and writing it with NEXT leaves everything but pc. -/
theorem clearScreen : Obligations.ClearScreen := by
  intro s
  have hclear : ∀ px py, px < 64 → py < 32 → pixel blankScreen px py = false := fun px py _ _ =>
    pixel_blankScreen px py
  have hword : encode .cls = 0x00E0 := by decide
  obtain ⟨hregs, hmem, hindex, htimers, hstack, hkeypad, hfault, hinputs⟩ :=
    s.with_display_advance_frame blankScreen true
  exact ⟨_, exec_cls s, hclear, rfl, State.advance_pc _, hregs, hmem, hindex, htimers, hstack, hkeypad, hfault,
    hinputs, hword⟩

end Sys2Proof.Machine
end

section
/-! PROOFS. The decoder and the encoder against each other and against the opcode map (30_encoding.md R101 to R104,
R113). -/

namespace Sys2Proof

/-! ### The two directions of the round trip -/

/-- Settles O1: the major opcode picks the group and the sub-opcode the constructor, and every operand is read back from
its own field. -/
theorem decodeEncode : Obligations.DecodeEncode := by
  intro i
  cases i with
  | cls | ret => simp [encode, decode, decode0]
  | ldReg | orReg | andReg | xorReg | addReg | subReg | shr | subnReg | shl => simp [encode, decode, decode8]
  | skp | sknp => simp [encode, decode, decodeE]
  | ldVxDt | ldVxK | ldDtVx | ldStVx | addI | ldF | ldB | storeRegs | loadRegs => simp [encode, decode, decodeF]
  | _ => simp [encode, decode]

theorem encode_of_decode0 {nnn : Addr} {i : Instr} (h : decode0 nnn = .ok i) : encode i = formatA 0 nnn := by
  unfold decode0 at h
  split at h <;> cases h <;> rfl

theorem encode_of_decode8 {x y : Reg} {n : BitVec 4} {i : Instr} (h : decode8 x y n = .ok i) :
    encode i = formatXY 8 x y n := by
  unfold decode8 at h
  split at h <;> cases h <;> rfl

theorem encode_of_decodeE {x : Reg} {kk : Byte} {i : Instr} (h : decodeE x kk = .ok i) :
    encode i = formatXK 0xE x kk := by
  unfold decodeE at h
  split at h <;> cases h <;> rfl

theorem encode_of_decodeF {x : Reg} {kk : Byte} {i : Instr} (h : decodeF x kk = .ok i) :
    encode i = formatXK 0xF x kk := by
  unfold decodeF at h
  split at h <;> cases h <;> rfl


theorem formatA_of_fieldO {w : Word} {o : BitVec 4} (h : fieldO w = o) : formatA o (fieldNNN w) = w :=
  h ▸ formatA_fields w

theorem formatXK_of_fieldO {w : Word} {o : BitVec 4} (h : fieldO w = o) : formatXK o (fieldX w) (fieldKK w) = w :=
  h ▸ formatXK_fields w

theorem formatXY_of_fieldO {w : Word} {o : BitVec 4} (h : fieldO w = o) :
    formatXY o (fieldX w) (fieldY w) (fieldN w) = w :=
  h ▸ formatXY_fields w

theorem formatXY_of_fieldO_of_fieldN {w : Word} {o n : BitVec 4} (h : fieldO w = o) (hn : fieldN w = n) :
    formatXY o (fieldX w) (fieldY w) n = w :=
  hn ▸ formatXY_of_fieldO h

/-- Settles O2: the word is its fields packed again, and each major opcode's instruction packs exactly those fields. -/
theorem encodeDecode : Obligations.EncodeDecode := by
  intro w i h
  unfold decode at h
  split at h
  case h_1 ho => exact (encode_of_decode0 h).trans (formatA_of_fieldO ho)
  case h_2 ho => cases h; exact formatA_of_fieldO ho
  case h_3 ho => cases h; exact formatA_of_fieldO ho
  case h_4 ho => cases h; exact formatXK_of_fieldO ho
  case h_5 ho => cases h; exact formatXK_of_fieldO ho
  case h_6 ho => split at h <;> cases h; exact formatXY_of_fieldO_of_fieldN ho ‹_›
  case h_7 ho => cases h; exact formatXK_of_fieldO ho
  case h_8 ho => cases h; exact formatXK_of_fieldO ho
  case h_9 ho => exact (encode_of_decode8 h).trans (formatXY_of_fieldO ho)
  case h_10 ho => split at h <;> cases h; exact formatXY_of_fieldO_of_fieldN ho ‹_›
  case h_11 ho => cases h; exact formatA_of_fieldO ho
  case h_12 ho => cases h; exact formatA_of_fieldO ho
  case h_13 ho => cases h; exact formatXK_of_fieldO ho
  case h_14 ho => cases h; exact formatXY_of_fieldO ho
  case h_15 ho => exact (encode_of_decodeE h).trans (formatXK_of_fieldO ho)
  case h_16 => exact (encode_of_decodeF h).trans (formatXK_of_fieldO (nibble_eq_F fun k hk => by
    interval_cases k <;> assumption))

/-! ### Which words do not decode -/

theorem decode0_eq_error_iff (nnn : Addr) (g : Unmatched) :
    decode0 nnn = .error g ↔ g = .group0 ∧ nnn ≠ 0x0E0 ∧ nnn ≠ 0x0EE := by
  unfold decode0
  split <;> simp_all [eq_comm]

theorem decode8_eq_error_iff (x y : Reg) (n : BitVec 4) (g : Unmatched) :
    decode8 x y n = .error g ↔ g = .group8 ∧ 8 ≤ n.toNat ∧ n ≠ 0xE := by
  unfold decode8
  split <;> simp [eq_comm]
  case h_10 =>
    simp only [imp_false] at *
    exact fun _ => by bv_omega

theorem decodeE_eq_error_iff (x : Reg) (kk : Byte) (g : Unmatched) :
    decodeE x kk = .error g ↔ g = .groupE ∧ kk ≠ 0x9E ∧ kk ≠ 0xA1 := by
  unfold decodeE
  split <;> simp_all [eq_comm]

theorem decodeF_eq_error_iff (x : Reg) (kk : Byte) (g : Unmatched) :
    decodeF x kk = .error g ↔ g = .groupF ∧
      kk ∉ [0x07, 0x0A, 0x15, 0x18, 0x1E, 0x29, 0x33, 0x55, (0x65 : Byte)] := by
  unfold decodeF
  split <;> simp_all [eq_comm]

/-- A word has no meaning exactly in one of the six groups (30_encoding.md R113). -/
theorem decode_eq_error_iff (w : Word) (g : Unmatched) :
    decode w = .error g ↔
      (fieldO w = 0x0 ∧ decode0 (fieldNNN w) = .error g) ∨
      (fieldO w = 0x5 ∧ g = .group5 ∧ fieldN w ≠ 0) ∨
      (fieldO w = 0x8 ∧ decode8 (fieldX w) (fieldY w) (fieldN w) = .error g) ∨
      (fieldO w = 0x9 ∧ g = .group9 ∧ fieldN w ≠ 0) ∨
      (fieldO w = 0xE ∧ decodeE (fieldX w) (fieldKK w) = .error g) ∨
      (fieldO w = 0xF ∧ decodeF (fieldX w) (fieldKK w) = .error g) := by
  unfold decode
  split
  case h_6 ho =>
    by_cases hn : fieldN w = 0#4
    · simp [ho, hn]
    · simp [ho, hn, @eq_comm _ g]
  case h_10 ho =>
    by_cases hn : fieldN w = 0#4
    · simp [ho, hn]
    · simp [ho, hn, @eq_comm _ g]
  case h_16 =>
    have ho : fieldO w = 0xF#4 := nibble_eq_F fun k hk => by interval_cases k <;> assumption
    simp [ho]
  all_goals simp [*]

theorem fieldO_eq_iff (w : Word) (o : BitVec 4) : fieldO w = o ↔ w.toNat / 0x1000 = o.toNat := by
  rw [← BitVec.toNat_inj, fieldO_toNat]

theorem fieldN_eq_iff (w : Word) (n : BitVec 4) : fieldN w = n ↔ w.toNat % 16 = n.toNat := by
  rw [← BitVec.toNat_inj, fieldN_toNat]

theorem fieldKK_eq_iff (w : Word) (kk : Byte) : fieldKK w = kk ↔ w.toNat % 256 = kk.toNat := by
  rw [← BitVec.toNat_inj, fieldKK_toNat]

theorem fieldNNN_eq_iff (w : Word) (nnn : Addr) : fieldNNN w = nnn ↔ w.toNat % 0x1000 = nnn.toNat := by
  rw [← BitVec.toNat_inj, fieldNNN_toNat]

/-- Settles O4: the conditions of each group on the fields, as conditions on the word's digits. -/
theorem unmatchedGroups : Obligations.UnmatchedGroups := by
  intro w
  simp [decode_eq_error_iff, decode0_eq_error_iff, decode8_eq_error_iff, decodeE_eq_error_iff,
    decodeF_eq_error_iff, fieldO_eq_iff, fieldN_eq_iff, fieldKK_eq_iff, fieldNNN_eq_iff, fieldN_toNat]
  omega

/-- Settles O5: each word's value by its format, and the six decodes by evaluation. -/
theorem decodeWords : Obligations.DecodeWords := by
  refine ⟨fun x y n kk nnn => ?_, by decide, by decide, by decide, by decide, by decide, by decide⟩
  simp [encode, formatA_toNat, formatXK_toNat, formatXY_toNat]
  omega

/-! ### The rows of the opcode map -/

theorem OpcodeRow.admits_iff (r : OpcodeRow) (w : Word) : r.admits w = true ↔ w &&& r.mask = r.pattern := by
  simp [OpcodeRow.admits]

/-- Two rows that agree on every digit both of them fix are one row. -/
theorem opcodeRows_disjoint :
    ∀ r ∈ opcodeRows, ∀ q ∈ opcodeRows, r.pattern &&& q.mask = q.pattern &&& r.mask → q = r := by decide

theorem row_unique {w : Word} {r q : OpcodeRow} (hr : r ∈ opcodeRows) (hq : q ∈ opcodeRows)
    (hrw : r.admits w = true) (hqw : q.admits w = true) : q = r := by
  refine opcodeRows_disjoint r hr q hq ?_
  rw [← r.admits_iff w |>.1 hrw, ← q.admits_iff w |>.1 hqw, BitVec.and_assoc, BitVec.and_assoc,
    BitVec.and_comm r.mask]

/-- A field the row's mask keeps whole is, in a word the row admits, that of the row's pattern. -/
theorem field_of_admits {r : OpcodeRow} {w : Word} (h : r.admits w = true) {start len : Nat}
    (hm : r.mask.extractLsb' start len = BitVec.allOnes len) :
    w.extractLsb' start len = r.pattern.extractLsb' start len := by
  rw [← (r.admits_iff w).1 h, BitVec.extractLsb'_and, hm, BitVec.and_allOnes]

/-- Every row fixes the major opcode. -/
theorem fieldO_of_admits {r : OpcodeRow} (hr : r ∈ opcodeRows) {w : Word} (h : r.admits w = true) :
    fieldO w = fieldO r.pattern :=
  have hmask : ∀ r ∈ opcodeRows, r.mask.extractLsb' 12 4 = 0xF#4 := by decide
  field_of_admits h (hmask r hr)

/-! The rows of each major opcode that leaves words unmatched fix the digits that tell them apart (R104). -/

theorem rows_group0 : ∀ r ∈ opcodeRows, fieldO r.pattern = 0x0 →
    r.mask.extractLsb' 0 12 = 0xFFF#12 ∧ (fieldNNN r.pattern = 0x0E0 ∨ fieldNNN r.pattern = 0x0EE) := by decide
theorem rows_group5 : ∀ r ∈ opcodeRows, fieldO r.pattern = 0x5 →
    r.mask.extractLsb' 0 4 = 0xF#4 ∧ fieldN r.pattern = 0 := by decide
theorem rows_group8 : ∀ r ∈ opcodeRows, fieldO r.pattern = 0x8 →
    r.mask.extractLsb' 0 4 = 0xF#4 ∧ ((fieldN r.pattern).toNat < 8 ∨ fieldN r.pattern = 0xE) := by decide
theorem rows_group9 : ∀ r ∈ opcodeRows, fieldO r.pattern = 0x9 →
    r.mask.extractLsb' 0 4 = 0xF#4 ∧ fieldN r.pattern = 0 := by decide
theorem rows_groupE : ∀ r ∈ opcodeRows, fieldO r.pattern = 0xE →
    r.mask.extractLsb' 0 8 = 0xFF#8 ∧ (fieldKK r.pattern = 0x9E ∨ fieldKK r.pattern = 0xA1) := by decide
theorem rows_groupF : ∀ r ∈ opcodeRows, fieldO r.pattern = 0xF →
    r.mask.extractLsb' 0 8 = 0xFF#8 ∧
      fieldKK r.pattern ∈ [0x07, 0x0A, 0x15, 0x18, 0x1E, 0x29, 0x33, 0x55, (0x65 : Byte)] := by decide

/-- A word that does not decode is admitted by no row: the row would have to be one of its own major opcode, and that
row's digits are ones the decoder reads. -/
theorem admits_of_decode_error {w : Word} {g : Unmatched} (h : decode w = .error g) {r : OpcodeRow}
    (hr : r ∈ opcodeRows) : r.admits w = false := by
  by_contra hne
  have hadm : r.admits w = true := by simpa using hne
  have hO := fieldO_of_admits hr hadm
  rcases (decode_eq_error_iff w g).1 h with ⟨ho, h0⟩ | ⟨ho, -, hn⟩ | ⟨ho, h8⟩ | ⟨ho, -, hn⟩ | ⟨ho, hE⟩ | ⟨ho, hF⟩
  · obtain ⟨hm, hp⟩ := rows_group0 r hr (hO ▸ ho)
    have hw : fieldNNN w = fieldNNN r.pattern := field_of_admits hadm hm
    obtain ⟨-, h1, h2⟩ := (decode0_eq_error_iff _ g).1 h0
    exact hp.elim (fun e => h1 (hw.trans e)) fun e => h2 (hw.trans e)
  · obtain ⟨hm, hp⟩ := rows_group5 r hr (hO ▸ ho)
    have hw : fieldN w = fieldN r.pattern := field_of_admits hadm hm
    exact hn (hw.trans hp)
  · obtain ⟨hm, hp⟩ := rows_group8 r hr (hO ▸ ho)
    have hw : fieldN w = fieldN r.pattern := field_of_admits hadm hm
    obtain ⟨-, h1, h2⟩ := (decode8_eq_error_iff _ _ _ g).1 h8
    exact hp.elim (fun e => absurd h1 (by rw [hw]; omega)) fun e => h2 (hw.trans e)
  · obtain ⟨hm, hp⟩ := rows_group9 r hr (hO ▸ ho)
    have hw : fieldN w = fieldN r.pattern := field_of_admits hadm hm
    exact hn (hw.trans hp)
  · obtain ⟨hm, hp⟩ := rows_groupE r hr (hO ▸ ho)
    have hw : fieldKK w = fieldKK r.pattern := field_of_admits hadm hm
    obtain ⟨-, h1, h2⟩ := (decodeE_eq_error_iff _ _ g).1 hE
    exact hp.elim (fun e => h1 (hw.trans e)) fun e => h2 (hw.trans e)
  · obtain ⟨hm, hp⟩ := rows_groupF r hr (hO ▸ ho)
    have hw : fieldKK w = fieldKK r.pattern := field_of_admits hadm hm
    obtain ⟨-, h1⟩ := (decodeF_eq_error_iff _ _ g).1 hF
    exact h1 (hw ▸ hp)

/-- The word of every instruction is matched by the map: the family EncodesInTable, for all constructors at once. -/
theorem wordMatched_encode (i : Instr) : wordMatched (encode i) = true := by
  open Laws.EncodesInTable in
  match i with
  | .cls => exact cls
  | .ret => exact ret
  | .jp nnn => exact jp nnn
  | .call nnn => exact call nnn
  | .seImm x kk => exact seImm x kk
  | .sneImm x kk => exact sneImm x kk
  | .seReg x y => exact seReg x y
  | .ldImm x kk => exact ldImm x kk
  | .addImm x kk => exact addImm x kk
  | .ldReg x y => exact ldReg x y
  | .orReg x y => exact orReg x y
  | .andReg x y => exact andReg x y
  | .xorReg x y => exact xorReg x y
  | .addReg x y => exact addReg x y
  | .subReg x y => exact subReg x y
  | .shr x y => exact shr x y
  | .subnReg x y => exact subnReg x y
  | .shl x y => exact shl x y
  | .sneReg x y => exact sneReg x y
  | .ldI nnn => exact ldI nnn
  | .jpV0 nnn => exact jpV0 nnn
  | .rnd x kk => exact rnd x kk
  | .drw x y n => exact drw x y n
  | .skp x => exact skp x
  | .sknp x => exact sknp x
  | .ldVxDt x => exact ldVxDt x
  | .ldVxK x => exact ldVxK x
  | .ldDtVx x => exact ldDtVx x
  | .ldStVx x => exact ldStVx x
  | .addI x => exact addI x
  | .ldF x => exact ldF x
  | .ldB x => exact ldB x
  | .storeRegs x => exact storeRegs x
  | .loadRegs x => exact loadRegs x

/-- Settles O3: a decoded word is the word of its instruction, which some row admits, and rows are disjoint; a word that
does not decode escapes every row of its group. -/
theorem decodeMatchesMap : Obligations.DecodeMatchesMap := by
  refine fun w => ⟨fun i h => ?_, fun g h r hr => admits_of_decode_error h hr⟩
  have hmatched : wordMatched w = true := encodeDecode w i h ▸ wordMatched_encode i
  obtain ⟨r, hr, hadm⟩ := List.any_eq_true.1 hmatched
  exact ⟨r, hr, hadm, fun q hq hqw => row_unique hr hq hadm hqw⟩

end Sys2Proof
end

section
/-! PROOFS. What an instruction does, said once: the fault it takes, or the effect it has (40_cycle.md R138;
60_exceptions.md R300, R301). -/

namespace Sys2Proof.Machine

/-- The cause and the info of the fault an instruction takes, where it takes one (60_exceptions.md R300). -/
def State.faultOf (s : State) : Instr → Fault × Word
  | .ret => (.stackUnderflow, 0)
  | .call _ => (.stackOverflow, 16)
  | .skp x | .sknp x => (.keyOutOfRange, zextByte (s.reg x))
  | _ => (.memOutOfBounds, s.i)

/-- The state after an instruction that takes no fault: its meaning without the range checks. -/
def State.effect (s : State) : Instr → State
  | .cls => ({ s with fb := blankScreen, changed := true } : State).advance
  | .ret => s.pop.jump s.topOfStack
  | .jp nnn => s.jump (zextAddr nnn)
  | .call nnn => (s.push (s.pc + 2)).jump (zextAddr nnn)
  | .seImm x kk => s.skipWhen (s.reg x == kk)
  | .sneImm x kk => s.skipWhen (s.reg x != kk)
  | .seReg x y => s.skipWhen (s.reg x == s.reg y)
  | .ldImm x kk => (s.setReg x kk).advance
  | .addImm x kk => (s.setReg x (s.reg x + kk)).advance
  | .ldReg x y => (s.setReg x (s.reg y)).advance
  | .orReg x y => (s.setReg x (s.reg x ||| s.reg y)).advance
  | .andReg x y => (s.setReg x (s.reg x &&& s.reg y)).advance
  | .xorReg x y => (s.setReg x (s.reg x ^^^ s.reg y)).advance
  | .addReg x y => (s.setResultFlag x (s.reg x + s.reg y) (carryFlag (s.reg x) (s.reg y))).advance
  | .subReg x y => (s.setResultFlag x (s.reg x - s.reg y) (notBorrowFlag (s.reg x) (s.reg y))).advance
  | .shr x _ => (s.setResultFlag x (s.reg x >>> 1) (shiftRightFlag (s.reg x))).advance
  | .subnReg x y => (s.setResultFlag x (s.reg y - s.reg x) (notBorrowFlag (s.reg y) (s.reg x))).advance
  | .shl x _ => (s.setResultFlag x (s.reg x <<< 1) (shiftLeftFlag (s.reg x))).advance
  | .sneReg x y => s.skipWhen (s.reg x != s.reg y)
  | .ldI nnn => ({ s with i := zextAddr nnn } : State).advance
  | .jpV0 nnn => s.jump (indexedTarget nnn (s.reg 0))
  | .rnd x kk => (s.setReg x (s.rnd &&& kk)).advance
  | .drw x y n => (s.present (s.drawing x y n)).advance
  | .skp x => s.skipWhen (s.keyDown (s.reg x).toNat)
  | .sknp x => s.skipWhen (!s.keyDown (s.reg x).toNat)
  | .ldVxDt x => (s.setReg x s.dt).advance
  | .ldVxK x => ({ s with waiting := true, kreg := x } : State).advance
  | .ldDtVx x => ({ s with dt := s.reg x } : State).advance
  | .ldStVx x => ({ s with st := s.reg x } : State).advance
  | .addI x => (({ s with i := s.i + zextByte (s.reg x) } : State).setFlag
      (indexOverflowFlag s.params.fx1eLimit s.i (s.reg x))).advance
  | .ldF x => ({ s with i := glyphAddr (s.reg x) } : State).advance
  | .ldB x => (s.writeBytes (effAddr s.i 0) (bcdDigits (s.reg x))).advance
  | .storeRegs x => (s.writeBytes (effAddr s.i 0) (s.regsUpTo x)).advance
  | .loadRegs x => (s.loadRegsFrom (effAddr s.i 0) (x.toNat + 1)).advance

/-! ### The range checks of the meanings are the fault conditions of the spec -/

theorem outOfRange_drw_iff (s : State) (x y : Reg) (n : Count) :
    outOfRange s.i.toNat n.toNat = true ↔ FaultWhen s (.drw x y n) := by
  rw [outOfRange_iff, FaultWhen]
  omega

theorem outOfRange_ldB_iff (s : State) (x : Reg) : outOfRange s.i.toNat 3 = true ↔ FaultWhen s (.ldB x) := by
  rw [outOfRange_iff, FaultWhen]
  omega

/-- Fx55 and Fx65 check the same range, and fault on it alike. -/
theorem outOfRange_regs_iff (s : State) (x : Reg) :
    outOfRange s.i.toNat (x.toNat + 1) = true ↔ FaultWhen s (.storeRegs x) := by
  rw [outOfRange_iff, FaultWhen]
  omega

/-- Ex9E and ExA1 check the same key range, and fault on it alike. -/
theorem keyInRange_iff_not_fault (s : State) (x : Reg) :
    keyInRange (s.reg x) = true ↔ ¬ FaultWhen s (.skp x) := by
  rw [keyInRange_iff, FaultWhen]
  omega

/-- An instruction whose fault condition holds takes its fault (60_exceptions.md R300). -/
theorem exec_of_fault {i : Instr} {s : State} (h : FaultWhen s i) :
    exec i s = .next (s.raise (s.faultOf i).1 (s.faultOf i).2 i) := by
  cases i with
  | ret => exact congrArg _ (if_pos (s.sp_eq_zero_iff.2 h))
  | call nnn => exact congrArg _ (if_pos (s.sp_eq_sixteen_iff.2 h))
  | drw x y n => exact congrArg _ (if_pos ((outOfRange_drw_iff s x y n).2 h))
  | skp x => exact congrArg _ (if_neg fun e => (keyInRange_iff_not_fault s x).1 e h)
  | sknp x => exact congrArg _ (if_neg fun e => (keyInRange_iff_not_fault s x).1 e h)
  | ldB x => exact congrArg _ (if_pos ((outOfRange_ldB_iff s x).2 h))
  | storeRegs x => exact congrArg _ (if_pos ((outOfRange_regs_iff s x).2 h))
  | loadRegs x => exact congrArg _ (if_pos ((outOfRange_regs_iff s x).2 h))
  | _ => exact h.elim

/-- An instruction whose fault condition does not hold has its effect (60_exceptions.md R301). -/
theorem exec_of_not_fault {i : Instr} {s : State} (h : ¬ FaultWhen s i) : exec i s = .next (s.effect i) := by
  cases i with
  | ret => exact congrArg _ (if_neg fun e => h (s.sp_eq_zero_iff.1 e))
  | call nnn => exact congrArg _ (if_neg fun e => h (s.sp_eq_sixteen_iff.1 e))
  | drw x y n => exact congrArg _ (if_neg fun e => h ((outOfRange_drw_iff s x y n).1 e))
  | skp x => exact congrArg _ (if_pos ((keyInRange_iff_not_fault s x).2 h))
  | sknp x => exact congrArg _ (if_pos ((keyInRange_iff_not_fault s x).2 h))
  | ldB x => exact congrArg _ (if_neg fun e => h ((outOfRange_ldB_iff s x).1 e))
  | storeRegs x => exact congrArg _ (if_neg fun e => h ((outOfRange_regs_iff s x).1 e))
  | loadRegs x => exact congrArg _ (if_neg fun e => h ((outOfRange_regs_iff s x).1 e))
  | _ => rfl

/-- The two things an instruction can do. -/
theorem exec_cases {i : Instr} {s t : State} (h : exec i s = .next t) :
    (FaultWhen s i ∧ t = s.raise (s.faultOf i).1 (s.faultOf i).2 i) ∨ (¬ FaultWhen s i ∧ t = s.effect i) := by
  by_cases hf : FaultWhen s i
  · rw [exec_of_fault hf] at h
    injection h with h
    exact .inl ⟨hf, h.symm⟩
  · rw [exec_of_not_fault hf] at h
    injection h with h
    exact .inr ⟨hf, h.symm⟩

/-! ### What no effect touches: the fault record, the snapshot, the inputs and the parameters -/

theorem State.effect_sameFault (s : State) (i : Instr) : SameFault s (s.effect i) := by
  cases i <;> simp [State.effect, SameFault]

theorem State.effect_sameInputs (s : State) (i : Instr) : SameInputs s (s.effect i) := by
  cases i <;> simp [State.effect, SameInputs]

@[simp] theorem State.effect_halted (s : State) (i : Instr) : (s.effect i).halted = s.halted :=
  (s.effect_sameFault i).1

@[simp] theorem State.effect_params (s : State) (i : Instr) : (s.effect i).params = s.params := by
  obtain ⟨-, -, -, hparams⟩ := s.effect_sameInputs i
  exact hparams

@[simp] theorem State.effect_keypad (s : State) (i : Instr) : (s.effect i).keypad = s.keypad := by
  cases i <;> simp [State.effect]

/-! ### Each remaining part of the state, and the instructions that write it -/

theorem State.effect_i (s : State) {i : Instr} (hldI : ∀ nnn, i ≠ .ldI nnn) (haddI : ∀ x, i ≠ .addI x)
    (hldF : ∀ x, i ≠ .ldF x) : (s.effect i).i = s.i := by
  cases i with
  | ldI nnn => exact absurd rfl (hldI nnn)
  | addI x => exact absurd rfl (haddI x)
  | ldF x => exact absurd rfl (hldF x)
  | _ => simp [State.effect]

theorem State.effect_sameDisplay (s : State) {i : Instr} (hcls : i ≠ .cls) (hdrw : ∀ x y n, i ≠ .drw x y n) :
    SameDisplay s (s.effect i) := by
  cases i with
  | cls => exact absurd rfl hcls
  | drw x y n => exact absurd rfl (hdrw x y n)
  | _ => simp [State.effect, SameDisplay]

theorem State.effect_sameStack (s : State) {i : Instr} (hret : i ≠ .ret) (hcall : ∀ nnn, i ≠ .call nnn) :
    SameStack s (s.effect i) := by
  cases i with
  | ret => exact absurd rfl hret
  | call nnn => exact absurd rfl (hcall nnn)
  | _ => simp [State.effect, SameStack]

theorem State.effect_dt (s : State) {i : Instr} (h : ∀ x, i ≠ .ldDtVx x) : (s.effect i).dt = s.dt := by
  cases i with
  | ldDtVx x => exact absurd rfl (h x)
  | _ => simp [State.effect]

theorem State.effect_st (s : State) {i : Instr} (h : ∀ x, i ≠ .ldStVx x) : (s.effect i).st = s.st := by
  cases i with
  | ldStVx x => exact absurd rfl (h x)
  | _ => simp [State.effect]

theorem State.effect_latch (s : State) {i : Instr} (h : ∀ x, i ≠ .ldVxK x) :
    (s.effect i).waiting = s.waiting ∧ (s.effect i).kreg = s.kreg := by
  cases i with
  | ldVxK x => exact absurd rfl (h x)
  | _ => simp [State.effect]

end Sys2Proof.Machine
end

section
/-! PROOFS. Faults, and what each part of the state is written by (60_exceptions.md R300 to R302; 10_state.md R33). -/

namespace Sys2Proof.Machine

/-! ### Fault entry -/

/-- Fault entry writes the record and nothing else (60_exceptions.md R302). -/
theorem State.raise_faultEntered (s : State) (c : Fault) (info : Word) (i : Instr) :
    FaultEntered s (s.raise c info i) c.code (encode i) info := by
  simp [FaultEntered, SameRegs, SameMemory, SameIndex, SameTimers, SameStack, SameDisplay, SameKeypad, SameInputs]

/-- Codes 1 to 4 name the causes (60_exceptions.md R300). -/
theorem Fault.code_range (c : Fault) : 1 ≤ c.code.toNat ∧ c.code.toNat ≤ 4 := by
  cases c <;> decide

/-- Settles O22: a fault halts, and an effect keeps the halted bit. -/
theorem faultExactly : Obligations.FaultExactly := by
  intro i s t hrun h
  rcases exec_cases h with ⟨hf, rfl⟩ | ⟨hf, rfl⟩
  · simp [hf]
  · simp [hf, hrun]

/-- Settles O23: the fault taken is entered precisely. -/
theorem faultPrecise : Obligations.FaultPrecise := fun i s h =>
  ⟨_, _, _, exec_of_fault h, s.raise_faultEntered _ _ i, (s.faultOf i).1.code_range⟩

/-! ### Registers -/

theorem State.reg_setResultFlag_of_ne (s : State) {x q : Reg} (b : Byte) (f : Bool) (hx : q ≠ x) (hF : q ≠ VF) :
    (s.setResultFlag x b f).reg q = s.reg q := by
  rw [State.reg_setResultFlag, if_neg hF, if_neg hx]

/-- An effect writes no register outside the instruction's row of the table (10_state.md R33). -/
theorem State.effect_reg (s : State) {i : Instr} {r : Reg} (h : ¬ WritesReg r i) : (s.effect i).reg r = s.reg r := by
  cases i with
  | ldImm | addImm | rnd | ldReg | orReg | andReg | xorReg | ldVxDt => exact s.reg_setReg_of_ne _ h
  | addReg | subReg | shr | subnReg | shl =>
    exact s.reg_setResultFlag_of_ne _ _ (fun e => h (.inl e)) fun e => h (.inr e)
  | addI x => exact (State.reg_setFlag _ _ r).trans (if_neg h)
  | drw x y n => exact (State.reg_present s _ r).trans (if_neg h)
  | loadRegs x =>
    have hx := x.isLt
    have hr : ¬ r.toNat < x.toNat + 1 := fun e => h (Nat.le_of_lt_succ e)
    exact (s.reg_loadRegsFrom _ _ (by omega) r).trans (if_neg hr)
  | _ => simp [State.effect, State.reg]

/-- Settles O24: a fault writes no register, an effect only its own. -/
theorem registersWritten : Obligations.RegistersWritten := by
  intro i s t h r hr
  rcases exec_cases h with ⟨-, rfl⟩ | ⟨-, rfl⟩
  · exact s.reg_raise _ _ i r
  · exact s.effect_reg hr

/-! ### Index register, display, stack, timers, latch -/

/-- Settles O25: a fault keeps I, and so does the effect of every other instruction. -/
theorem indexWritten : Obligations.IndexWritten := by
  intro i s t h hldI haddI hldF
  rcases exec_cases h with ⟨-, rfl⟩ | ⟨-, rfl⟩
  · exact s.raise_i _ _ i
  · exact s.effect_i hldI haddI hldF

/-- Settles O27: a fault keeps the display, and so does the effect of every other instruction. -/
theorem displayWritten : Obligations.DisplayWritten := by
  intro i s t h hcls hdrw
  rcases exec_cases h with ⟨-, rfl⟩ | ⟨-, rfl⟩
  · exact ⟨s.raise_fb _ _ i, s.raise_changed _ _ i⟩
  · exact s.effect_sameDisplay hcls hdrw

/-- Settles O28: a fault keeps the stack, and so does the effect of every other instruction. -/
theorem stackWritten : Obligations.StackWritten := by
  intro i s t h hret hcall
  rcases exec_cases h with ⟨-, rfl⟩ | ⟨-, rfl⟩
  · exact ⟨s.raise_sp _ _ i, s.raise_stack _ _ i⟩
  · exact s.effect_sameStack hret hcall

/-- Settles O29: a fault keeps both timers, and an effect the timer it does not set. -/
theorem timersWritten : Obligations.TimersWritten := by
  intro i s t h
  rcases exec_cases h with ⟨-, rfl⟩ | ⟨-, rfl⟩
  · exact ⟨fun _ => s.raise_dt _ _ i, fun _ => s.raise_st _ _ i⟩
  · exact ⟨s.effect_dt, s.effect_st⟩

/-- Settles O30: neither a fault nor an effect touches the inputs, and only Fx0A's effect touches the latch. -/
theorem latchWritten : Obligations.LatchWritten := by
  intro i s t h
  rcases exec_cases h with ⟨-, rfl⟩ | ⟨-, rfl⟩
  · exact ⟨s.raise_keypad _ _ i, by simp [SameInputs], fun _ => ⟨s.raise_waiting _ _ i, s.raise_kreg _ _ i⟩⟩
  · exact ⟨s.effect_keypad i, s.effect_sameInputs i, s.effect_latch⟩

/-! ### Memory -/

theorem State.effect_mem (s : State) {i : Instr} (hldB : ∀ x, i ≠ .ldB x) (hstore : ∀ x, i ≠ .storeRegs x) :
    (s.effect i).mem = s.mem := by
  cases i with
  | ldB x => exact absurd rfl (hldB x)
  | storeRegs x => exact absurd rfl (hstore x)
  | _ => simp [State.effect]

/-- An effect leaves at every address the byte of `byteAfter` (43_index_memory.md R235, R236). -/
theorem State.effect_readByte (s : State) (i : Instr) (a : Nat) : (s.effect i).readByte a = byteAfter s a i := by
  cases i with
  | ldB x =>
    rw [State.effect, State.readByte_advance, State.readByte_writeBytes, byteAfter]
    by_cases hin : s.i.toNat ≤ a ∧ a - s.i.toNat < 3
    · obtain ⟨k, rfl⟩ := Nat.exists_eq_add_of_le hin.1
      have hk : k < 3 := by omega
      rw [dif_pos (by simpa [effAddr] using hk)]
      interval_cases k <;> simp [effAddr, bcdDigits]
    · rw [dif_neg (by simpa [effAddr] using hin), if_neg (by omega), if_neg (by omega), if_neg (by omega)]
  | storeRegs x =>
    rw [State.effect, State.readByte_advance, State.readByte_writeBytes, byteAfter]
    by_cases hin : s.i.toNat ≤ a ∧ a ≤ s.i.toNat + x.toNat
    · rw [dif_pos (by simp [effAddr]; omega), if_pos hin, State.regsUpTo_getElem]
      rfl
    · rw [dif_neg (by simp [effAddr]; omega), if_neg hin]
  | _ => exact State.readByte_congr (s.effect_mem (by simp) (by simp)) (s.effect_params _) a

/-- Outside the stored bytes `byteAfter` is the byte that was there. -/
theorem byteAfter_of_not_storesTo {s : State} {a : Nat} {i : Instr} (h : ¬ StoresTo s a i) :
    byteAfter s a i = s.readByte a := by
  cases i with
  | ldB x =>
    simp only [StoresTo] at h
    rw [byteAfter, if_neg (by omega), if_neg (by omega), if_neg (by omega)]
  | storeRegs x =>
    simp only [StoresTo] at h
    exact if_neg (by omega)
  | _ => rfl

/-- Settles O26: a fault keeps memory, and an effect stores to its own bytes only. -/
theorem memoryWritten : Obligations.MemoryWritten := by
  intro i s t h a ha
  rcases exec_cases h with ⟨-, rfl⟩ | ⟨-, rfl⟩
  · exact s.readByte_raise _ _ i a
  · rw [s.effect_readByte, byteAfter_of_not_storesTo ha]

/-! ### The pc -/

theorem zextAddr_eq (nnn : Addr) : zextAddr nnn = BitVec.ofNat 16 nnn.toNat :=
  BitVec.eq_of_toNat_eq (by rw [zextAddr_toNat, BitVec.toNat_ofNat, Nat.mod_eq_of_lt (by omega)])

theorem indexedTarget_eq (nnn : Addr) (b : Byte) : indexedTarget nnn b = BitVec.ofNat 16 (nnn.toNat + b.toNat) :=
  BitVec.eq_of_toNat_eq (by rw [indexedTarget_toNat, BitVec.toNat_ofNat, Nat.mod_eq_of_lt (by omega)])

/-- A skip whose condition is the negation of the one the spec's table lists first. -/
theorem State.skipWhen_pc_of_iff_not (s : State) {c : Bool} {p : Prop} [Decidable p] (h : c = true ↔ ¬ p) :
    (s.skipWhen c).pc = if p then s.pc + 2 else s.pc + 4 := by
  rw [s.skipWhen_pc_of_iff h, ite_not]

/-- An effect leaves the pc of the transition table (40_cycle.md R139). -/
theorem State.effect_pc (s : State) (i : Instr) : (s.effect i).pc = NextPc s i := by
  cases i with
  | jp nnn => exact zextAddr_eq nnn
  | call nnn => exact zextAddr_eq nnn
  | jpV0 nnn => exact indexedTarget_eq nnn _
  | seImm x kk => exact s.skipWhen_pc_of_iff beq_iff_eq
  | seReg x y => exact s.skipWhen_pc_of_iff beq_iff_eq
  | skp x => exact s.skipWhen_pc_of_iff Iff.rfl
  | sneImm x kk => exact s.skipWhen_pc_of_iff_not bne_iff_ne
  | sneReg x y => exact s.skipWhen_pc_of_iff_not bne_iff_ne
  | sknp x => exact s.skipWhen_pc_of_iff_not (by simp [State.keyDown])
  | _ => simp [State.effect, NextPc]

/-- Settles O31: the pc of an effect, and that a fault, a fetch fault and a wait step leave it. -/
theorem pcTransition : Obligations.PcTransition := by
  refine ⟨fun i s h => ⟨_, exec_of_not_fault h, s.effect_pc i⟩, fun i s h => ⟨_, exec_of_fault h, s.raise_pc _ _ i⟩,
    fun s w g h => ⟨s.advance, by rw [State.executeWord, h], s.advance_pc⟩,
    fun s hrun hwait => ⟨_, step_of_waiting hrun hwait, ?_⟩,
    fun s hrun hwait hpc => ⟨_, step_of_fetch_fault hrun hwait (fetch_eq_none hpc), ?_⟩⟩
  · rw [State.serviceWait_pc, State.sample_pc]
  · rw [State.enterFault_pc, State.countdown_pc, State.sample_pc]

/-! ### What an instruction reads of the keypad and the random byte -/

/-- Another snapshot and another random byte in the same state. -/
def State.withInput (s : State) (k : BitVec 16) (b : Byte) : State := { s with keypad := k, rnd := b }

theorem State.push_withInput (s : State) (k : BitVec 16) (b : Byte) (a : Word) :
    (s.withInput k b).push a = (s.push a).withInput k b := by
  by_cases h : s.sp.val < 16
  · simp [State.push, State.withInput, h]
  · simp [State.push, State.withInput, h]

theorem State.writeBytes_withInput (s : State) (k : BitVec 16) (b : Byte) (a : Nat) (bs : List Byte) :
    (s.withInput k b).writeBytes a bs = (s.writeBytes a bs).withInput k b := by
  induction bs generalizing s a with
  | nil => rfl
  | cons c bs ih => exact ih (s.writeByte a c) (a + 1)

theorem State.loadRegsFrom_withInput (s : State) (k : BitVec 16) (b : Byte) (a n : Nat) :
    (s.withInput k b).loadRegsFrom a n = (s.loadRegsFrom a n).withInput k b := by
  induction n with
  | zero => rfl
  | succ n ih => rw [State.loadRegsFrom, ih]; rfl

/-- Fault conditions read the registers, I and SP only. -/
theorem faultWhen_congr {s t : State} (hv : t.v = s.v) (hi : t.i = s.i) (hsp : t.sp = s.sp) (i : Instr) :
    FaultWhen t i ↔ FaultWhen s i := by
  cases i <;> simp [FaultWhen, State.reg, hv, hi, hsp]

/-- An effect that reads neither the snapshot nor the random byte commutes with replacing them. -/
theorem State.effect_withInput (s : State) {i : Instr} {k : BitVec 16} {b : Byte}
    (hk : k = s.keypad ∨ ((∀ x, i ≠ .skp x) ∧ ∀ x, i ≠ .sknp x)) (hb : b = s.rnd ∨ ∀ x kk, i ≠ .rnd x kk) :
    (s.withInput k b).effect i = (s.effect i).withInput k b := by
  cases i with
  | skp x =>
    obtain rfl := hk.resolve_right fun h => h.1 x rfl
    rfl
  | sknp x =>
    obtain rfl := hk.resolve_right fun h => h.2 x rfl
    rfl
  | rnd x kk =>
    obtain rfl := hb.resolve_right fun h => h x kk rfl
    rfl
  | call nnn => exact congrArg (State.jump · _) (s.push_withInput k b _)
  | ldB x => exact congrArg State.advance (s.writeBytes_withInput k b _ _)
  | storeRegs x => exact congrArg State.advance (s.writeBytes_withInput k b _ _)
  | loadRegs x => exact congrArg State.advance (s.loadRegsFrom_withInput k b _ _)
  | _ => rfl

theorem exec_withInput {s t : State} {i : Instr} (h : exec i s = .next t) {k : BitVec 16} {b : Byte}
    (hk : k = s.keypad ∨ ((∀ x, i ≠ .skp x) ∧ ∀ x, i ≠ .sknp x)) (hb : b = s.rnd ∨ ∀ x kk, i ≠ .rnd x kk) :
    exec i (s.withInput k b) = .next (t.withInput k b) := by
  have hfault : FaultWhen (s.withInput k b) i ↔ FaultWhen s i := faultWhen_congr rfl rfl rfl i
  rcases exec_cases h with ⟨hf, rfl⟩ | ⟨hf, rfl⟩
  · rw [exec_of_fault (hfault.2 hf)]
    cases i <;> rfl
  · rw [exec_of_not_fault (mt hfault.1 hf), s.effect_withInput hk hb]

/-- Settles O32: replacing the part of the input an instruction does not read changes nothing else. -/
theorem inputsRead : Obligations.InputsRead := by
  intro i s t h
  obtain ⟨hkeypad, ⟨hrnd, -⟩, -⟩ := latchWritten i s t h
  refine ⟨fun hskp hsknp k => ?_, fun hnrnd b => ?_⟩
  · have hexec := exec_withInput h (k := k) (.inr ⟨hskp, hsknp⟩) (.inl rfl)
    exact hexec.trans (congrArg _ (by rw [State.withInput, ← hrnd]))
  · have hexec := exec_withInput h (b := b) (.inl rfl) (.inr hnrnd)
    exact hexec.trans (congrArg _ (by rw [State.withInput, ← hkeypad]))

end Sys2Proof.Machine
end

section
/-! PROOFS. One step: its phases, the clocks and flags it leaves, and the word placed for it (40_cycle.md R130 to
R140). -/

namespace Sys2Proof.Machine

/-! ### The phases before the fetch -/

/-- Sampling and counting leave the state an instruction reads: nothing but inputs, dirty flag and timers differs
(40_cycle.md R131, R134). -/
theorem sample_countdown_frame (s : State) :
    let u := s.sample.countdown
    u.keypad = s.nextInput.keys ∧ u.rnd = s.nextInput.rnd ∧ u.changed = false ∧
      u.dt.toNat = s.dt.toNat - 1 ∧ u.st.toNat = s.st.toNat - 1 ∧
      SameRegs s u ∧ SameMemory s u ∧ SameIndex s u ∧ SameStack s u ∧ SameFault s u ∧
      u.pc = s.pc ∧ u.fb = s.fb ∧ u.waiting = s.waiting ∧ u.kreg = s.kreg ∧ u.params = s.params ∧
      u.inputs = s.inputs.tail ∧ u.inputIndex = s.inputIndex + 1 :=
  ⟨rfl, rfl, rfl, tick_toNat s.dt, tick_toNat s.st, fun _ => rfl, fun _ => rfl, rfl, ⟨rfl, rfl⟩,
    ⟨rfl, rfl, rfl, rfl, rfl⟩, rfl, rfl, rfl, rfl, rfl, rfl, rfl⟩

theorem faultWhen_sample_countdown (s : State) (i : Instr) : FaultWhen s.sample.countdown i ↔ FaultWhen s i :=
  faultWhen_congr rfl rfl rfl i

/-! ### What each kind of step runs -/

/-- Settles O6: the state the instruction runs in is that of the sample and the countdown. -/
theorem stepRunsDecoded : Obligations.StepRunsDecoded := fun s _ hrun hwait hpc hd =>
  ⟨_, step_of_decoded hrun hwait (fetch_eq_some hpc) hd, sample_countdown_frame s⟩

/-- Settles O7: an unmatched word's step is the sample, the countdown and NEXT. -/
theorem stepUnmatched : Obligations.StepUnmatched := by
  intro s g hrun hwait hpc hd
  obtain ⟨hkeys, -, hchanged, hdt, hst, hregs, hmem, hindex, hstack, hfault, -, hfb, hw, hkreg, hparams, -⟩ :=
    sample_countdown_frame s
  exact ⟨_, step_of_unmatched hrun hwait (fetch_eq_some hpc) hd, rfl, hregs, hmem, hindex, hstack, hfault, hfb,
    hchanged, hw.trans hwait, hkreg, hparams, hkeys, hdt, hst⟩

/-- Settles O8: a halted step is the identity, and the ports mask their flags by the halted bit. -/
theorem haltedStep : Obligations.HaltedStep := by
  intro s h
  refine ⟨step_of_halted h, ?_⟩
  simp [State.result, State.ports, h]

/-- Settles O9: the fetch fault enters the record after the sample and the countdown. -/
theorem fetchFault : Obligations.FetchFault := by
  intro s hrun hwait hpc
  obtain ⟨hkeys, -, hchanged, hdt, hst, hregs, hmem, hindex, hstack, -, -, hfb, hw, hkreg, -⟩ :=
    sample_countdown_frame s
  exact ⟨_, step_of_fetch_fault hrun hwait (fetch_eq_none hpc), rfl, rfl, rfl, rfl, rfl, rfl, hdt, hst, hkeys, hchanged,
    hfb, hw.trans hwait, hkreg, hregs, hmem, hindex, hstack, rfl⟩

/-- Settles O15: each case of the step is a next state, and so is every instruction. -/
theorem stepNeverStops : Obligations.StepNeverStops := by
  intro s
  cases hrun : s.halted with
  | true => exact ⟨_, step_of_halted hrun⟩
  | false =>
    cases hwait : s.waiting with
    | true => exact ⟨_, step_of_waiting hrun hwait⟩
    | false =>
      cases hf : s.fetch with
      | none => exact ⟨_, step_of_fetch_fault hrun hwait hf⟩
      | some w =>
        cases hd : decode w with
        | error g => exact ⟨_, step_of_unmatched hrun hwait hf hd⟩
        | ok i => exact step_of_decoded hrun hwait hf hd ▸ exec_eq_next i _

/-! ### The snapshot -/

/-- A step of a running core depends on the state through its sample alone. -/
theorem step_congr_of_sample {s t : State} (hs : s.halted = false) (ht : t.halted = false) (h : t.sample = s.sample) :
    step t = step s := by
  rw [step, step, State.cycle, State.cycle, hs, ht, h]
  rfl

/-- Settles O12: no phase after the sample writes the inputs, and the sample overwrites what it replaces. -/
theorem snapshotFresh : Obligations.SnapshotFresh := by
  refine fun s hrun => ⟨fun t h => ?_, fun k c => step_congr_of_sample hrun hrun rfl⟩
  rcases step_cases h with ⟨hhalt, -⟩ | ⟨-, -, rfl⟩ | ⟨-, -, -, rfl⟩ | ⟨-, -, _, _, -, -, rfl⟩ |
    ⟨-, -, _, i, -, -, hexec⟩
  · simp [hrun] at hhalt
  · simp
  · simp
  · simp
  · obtain ⟨hkeypad, ⟨hrnd, hinputs, hindex, hparams⟩, -⟩ := latchWritten i _ t hexec
    exact ⟨hkeypad, hrnd, hinputs, hindex, hparams⟩

/-! ### The timers -/

/-- Settles O13: after the countdown no phase writes a timer but the Fx15 or Fx18 the step runs. -/
theorem timersCount : Obligations.TimersCount := by
  intro s t hrun hwait h
  have hdt : (tick s.dt).toNat = s.dt.toNat - 1 := tick_toNat s.dt
  have hst : (tick s.st).toNat = s.st.toNat - 1 := tick_toNat s.st
  rcases step_cases h with ⟨hhalt, -⟩ | ⟨-, hw, -⟩ | ⟨-, -, -, rfl⟩ | ⟨-, -, _, _, -, -, rfl⟩ |
    ⟨-, -, w, i, hf, hd, hexec⟩
  · simp [hrun] at hhalt
  · simp [hwait] at hw
  · exact ⟨fun _ => hdt, fun _ => hst⟩
  · exact ⟨fun _ => hdt, fun _ => hst⟩
  · obtain ⟨hkeepDt, hkeepSt⟩ := timersWritten i _ t hexec
    refine ⟨fun hn => ?_, fun hn => ?_⟩
    · rw [hkeepDt fun x e => hn x w hf (e ▸ hd)]
      exact hdt
    · rw [hkeepSt fun x e => hn x w hf (e ▸ hd)]
      exact hst

/-! ### The dirty flag -/

/-- An instruction run with the flag down raises it exactly when it is a 00E0 or a Dxyn that takes no fault
(10_state.md R51). -/
theorem exec_changed_iff {i : Instr} {s t : State} (hdown : s.changed = false) (h : exec i s = .next t) :
    t.changed = true ↔ i = .cls ∨ ∃ x y n, i = .drw x y n ∧ ¬ FaultWhen s (.drw x y n) := by
  rcases exec_cases h with ⟨hf, rfl⟩ | ⟨hf, rfl⟩
  · have hcls : i ≠ .cls := fun e => by simp [e, FaultWhen] at hf
    have hdrw : ¬ ∃ x y n, i = .drw x y n ∧ ¬ FaultWhen s (.drw x y n) := fun ⟨x, y, n, e, hn⟩ => hn (e ▸ hf)
    simp [hdown, hcls, hdrw]
  · cases i with
    | cls => simp [State.effect]
    | drw x y n => simp [State.effect, hf]
    | _ => simp [State.effect, hdown]

/-- Settles O14: the sample lowers the flag, and only the instruction the step runs can raise it. -/
theorem dirtyFlag : Obligations.DirtyFlag := by
  intro s t hrun h
  rcases step_cases h with ⟨hhalt, -⟩ | ⟨-, hw, rfl⟩ | ⟨-, hw, hf, rfl⟩ | ⟨-, hw, w, g, hf, hd, rfl⟩ |
    ⟨-, hw, w, i, hf, hd, hexec⟩
  · simp [hrun] at hhalt
  · simp [hw]
  · simp [hf]
  · simp [hf, hd]
  · rw [exec_changed_iff rfl hexec]
    simp [hw, hf, hd, faultWhen_sample_countdown]

/-! ### The output -/

/-- Settles O16: the record and the ports read the same fields, and y*64 + x determines x and y. -/
theorem outputRecord : Obligations.OutputRecord := by
  intro s t _ hrun
  refine ⟨State.result_of_not_halted hrun, fun px py hx _ => ?_, by simp [State.ports, hrun],
    by simp [State.ports, hrun]⟩
  have hcol : (py * 64 + px) % 64 = px := by omega
  have hrow : (py * 64 + px) / 64 = py := by omega
  rw [Ports.fbWire, hcol, hrow]
  rfl

/-! ### The word placed for the next step -/

theorem State.readyToFetch_ready (s : State) :
    s.readyToFetch.halted = false ∧ s.readyToFetch.waiting = false ∧ s.readyToFetch.pc.toNat ≤ 0xFFE := by
  refine ⟨?_, rfl, ?_⟩
  · cases h : s.halted <;> simp [State.readyToFetch, h]
  · by_cases h : 0xFFF < s.pc.toNat + 1
    · simp [State.readyToFetch, h]
    · simp only [State.readyToFetch, if_neg h]
      omega

/-- A table word decodes as the word it stands for. -/
theorem decode_tableWord {nbits w : Nat} {i : Instr} (h : decodeTableWord nbits w = some i) :
    decode (tableWord nbits w) = .ok i := by
  rw [decodeTableWord, decodeBytes, wordOfBytes_bytes] at h
  cases hd : decode (tableWord nbits w) with
  | error g => simp [hd, Except.toOption] at h
  | ok j =>
    have hj : j = i := by simpa [hd, Except.toOption] using h
    rw [hj]

/-- Settles O17: the placed word is fetched back, since the state it is placed in is ready to fetch. -/
theorem fetchWordRuns : Obligations.FetchWordRuns := by
  intro s w i h
  obtain ⟨hrun, hwait, hpc⟩ := s.readyToFetch_ready
  exact step_of_decoded (by simpa [State.withFetchWord, State.placeWord] using hrun)
    (by simpa [State.withFetchWord, State.placeWord] using hwait) (fetch_writeBytes_pc _ _ hpc) (decode_tableWord h)

end Sys2Proof.Machine
end

section
/-! PROOFS. The invariant: it holds at reset, and every step keeps it (10_state.md R38, R56; 41_control_flow.md R162;
60_exceptions.md R302). -/

namespace Sys2Proof.Machine

/-! ### Reset -/

theorem State.resetWith_inv (p : Params) : (State.resetWith p).Inv where
  mem := ⟨List.Pairwise.nil, fun _ h => nomatch h⟩
  record := ⟨fun _ => ⟨rfl, rfl, rfl, rfl⟩, fun h => nomatch h⟩
  pc := ⟨Nat.le_of_ble_eq_true rfl, fun _ h => absurd h (Nat.not_lt_zero _)⟩

/-- Settles O20: reset lists no memory, clears the record, and empties the stack; the inputs it keeps are in no
clause. -/
theorem resetInv : Obligations.ResetInv := by
  refine ⟨State.resetWith_inv, fun s => ?_⟩
  obtain ⟨hmem, hrecord, hpc⟩ := State.resetWith_inv s.params
  exact ⟨hmem, hrecord, hpc⟩

theorem readByte_assertReset (s : State) (a : Nat) : s.assertReset.readByte a = unlisted s.params a := rfl

/-- Settles O19: every field's reset value, and memory as what an unlisted address reads as. -/
theorem resetDecided : Obligations.ResetDecided := by
  intro s
  have hstack : ∀ j : Fin 16, s.assertReset.stack[j.val] = 0 := fun j => Vector.getElem_replicate j.isLt
  have hfont : ∀ a : Fin 80, s.assertReset.readByte a.val = s.params.font[a.val] := fun a =>
    (readByte_assertReset s a).trans (dif_pos a.isLt)
  have hzero : ∀ a : Nat, 80 ≤ a → s.assertReset.readByte a = 0 := fun a ha =>
    (readByte_assertReset s a).trans (dif_neg (Nat.not_lt.2 ha))
  exact ⟨rfl, hstack, rfl, rfl, pixel_blankScreen, rfl, rfl, rfl, rfl, rfl, rfl, rfl, rfl, rfl, hfont, hzero⟩

/-! ### Each clause of the invariant depends on its own fields -/

theorem memOk_congr {s t : State} (hm : t.mem = s.mem) (hp : t.params = s.params) : t.MemOk ↔ s.MemOk := by
  simp [State.MemOk, hm, hp]

/-- While the core runs, the record clause says that the record is clear. -/
theorem recordOk_of_running {s t : State} (hs : s.RecordOk) (hrun : s.halted = false) (h : SameFault s t) :
    t.RecordOk := by
  obtain ⟨hhalted, hcode, hpc, hop, hinfo⟩ := h
  refine ⟨fun _ => ?_, fun e => ?_⟩
  · rw [hcode, hpc, hop, hinfo]
    exact hs.1 hrun
  · simp [hhalted, hrun] at e

theorem State.enterFault_recordOk (s : State) (c : Fault) (info op : Word) (hdown : s.changed = false) :
    (s.enterFault c info op).RecordOk :=
  ⟨(nomatch ·), fun _ => ⟨⟨c, rfl⟩, rfl, hdown⟩⟩

/-- The valid stack entries are return addresses (41_control_flow.md R162): the second clause of `State.PcOk`. -/
def State.StackOk (s : State) : Prop := ∀ j : Fin 16, j.val < s.sp.val → s.stack[j.val].toNat ≤ 0x1000

theorem stackOk_of_sameStack {s t : State} (hs : s.StackOk) (h : SameStack s t) : t.StackOk := by
  obtain ⟨hsp, hstack⟩ := h
  intro j hj
  rw [hsp] at hj
  simpa [hstack] using hs j hj

/-! ### Instructions and the invariant -/

/-- NEXT from a fetchable pc is a return address. -/
theorem add_two_le {a : Word} (h : a.toNat ≤ 0xFFE) : (a + 2).toNat ≤ 0x1000 := by bv_omega

/-- SKIP from a fetchable pc. -/
theorem add_four_le {a : Word} (h : a.toNat ≤ 0xFFE) : (a + 4).toNat ≤ 0x1002 := by bv_omega

/-- A store that does not fault stays inside memory, so an effect keeps the canonical form. -/
theorem State.effect_memOk {s : State} {i : Instr} (hs : s.MemOk) (hf : ¬ FaultWhen s i) : (s.effect i).MemOk := by
  cases i with
  | ldB x =>
    have hroom : ¬ 0xFFF < s.i.toNat + 2 := hf
    refine State.writeBytes_memOk _ s _ hs ?_
    rw [bcdDigits_length, effAddr, memSize]
    omega
  | storeRegs x =>
    have hroom : ¬ 0xFFF < s.i.toNat + x.toNat := hf
    refine State.writeBytes_memOk _ s _ hs ?_
    rw [State.regsUpTo_length, effAddr, memSize]
    omega
  | _ => exact (memOk_congr (s.effect_mem (by simp) (by simp)) (s.effect_params _)).2 hs

/-- A call from a fetchable pc pushes a return address, a return drops one, and nothing else touches the stack. -/
theorem State.effect_stackOk {s : State} {i : Instr} (hs : s.StackOk) (hpc : s.pc.toNat ≤ 0xFFE)
    (hf : ¬ FaultWhen s i) : (s.effect i).StackOk := by
  cases i with
  | ret => exact fun j hj => hs j (Nat.lt_of_lt_of_le hj (Nat.sub_le _ _))
  | call nnn =>
    have hfull : ¬ s.sp.val = 16 := hf
    have hroom : s.sp.val < 16 := by omega
    obtain ⟨hsp, hstack⟩ := s.push_of_lt (s.pc + 2) hroom
    intro j hj
    simp only [State.effect, State.jump_sp, State.jump_stack, hsp, hstack, Vector.getElem_set] at hj ⊢
    split
    · exact add_two_le hpc
    · exact hs j (by omega)
  | _ => exact stackOk_of_sameStack hs (s.effect_sameStack (by simp) (by simp))

/-- NEXT and SKIP from a fetchable pc, a 12-bit target, the sum of Bnnn and a return address are all at most 0x10FE
(10_state.md R38). -/
theorem nextPc_le {s : State} {i : Instr} (hs : s.StackOk) (hpc : s.pc.toNat ≤ 0xFFE) (hf : ¬ FaultWhen s i) :
    (NextPc s i).toNat ≤ 0x10FE := by
  have h2 : (s.pc + 2).toNat ≤ 0x10FE := Nat.le_trans (add_two_le hpc) (by omega)
  have h4 : (s.pc + 4).toNat ≤ 0x10FE := Nat.le_trans (add_four_le hpc) (by omega)
  have hite : ∀ {p : Prop} [Decidable p] {a b : Word}, a.toNat ≤ 0x10FE → b.toNat ≤ 0x10FE →
      (if p then a else b).toNat ≤ 0x10FE := fun ha hb => by split <;> assumption
  cases i with
  | jp nnn | call nnn =>
    rw [NextPc, BitVec.toNat_ofNat]
    omega
  | ret =>
    have hpos : ¬ s.sp.val = 0 := hf
    have htop : s.topOfStack.toNat ≤ 0x1000 := hs ⟨s.sp.val - 1, by omega⟩ (by simp; omega)
    exact Nat.le_trans htop (by omega)
  | jpV0 nnn =>
    rw [NextPc, BitVec.toNat_ofNat]
    omega
  | seImm | seReg | skp => exact hite h4 h2
  | sneImm | sneReg | sknp => exact hite h2 h4
  | _ => exact h2

/-- An instruction run from a fetchable pc, with the dirty flag down, keeps the invariant. -/
theorem exec_inv {i : Instr} {s t : State} (hs : s.Inv) (hrun : s.halted = false) (hdown : s.changed = false)
    (hpc : s.pc.toNat ≤ 0xFFE) (h : exec i s = .next t) : t.Inv := by
  obtain ⟨hmem, hrecord, hle, hstack⟩ := hs
  rcases exec_cases h with ⟨-, rfl⟩ | ⟨hf, rfl⟩
  · exact ⟨hmem, s.enterFault_recordOk _ _ _ hdown, hle, hstack⟩
  · refine ⟨State.effect_memOk hmem hf, recordOk_of_running hrecord hrun (s.effect_sameFault i), ?_,
      State.effect_stackOk hstack hpc hf⟩
    rw [s.effect_pc]
    exact nextPc_le hstack hpc hf

theorem pc_le_of_fetch {s : State} {w : Word} (h : s.fetch = some w) : s.pc.toNat ≤ 0xFFE := by
  by_contra hpc
  rw [fetch_eq_none (by omega)] at h
  cases h

/-- Sampling and counting write no field of the invariant of a running core. -/
theorem sample_countdown_inv {s : State} (hs : s.Inv) (hrun : s.halted = false) : s.sample.countdown.Inv := by
  obtain ⟨hmem, hrecord, hpc⟩ := hs
  exact ⟨hmem, recordOk_of_running hrecord hrun ⟨rfl, rfl, rfl, rfl, rfl⟩, hpc⟩

/-- Settles O21: each case of the step keeps the invariant. -/
theorem stepKeepsInv : Obligations.StepKeepsInv := by
  intro s t hs h
  rcases step_cases h with ⟨-, rfl⟩ | ⟨hrun, -, rfl⟩ | ⟨hrun, -, -, rfl⟩ | ⟨hrun, -, w, g, hf, -, rfl⟩ |
    ⟨hrun, -, w, i, hf, -, hexec⟩
  · exact hs
  · obtain ⟨hmem, hrecord, hle, hstack⟩ := hs
    refine ⟨(memOk_congr (by simp) (by simp)).2 hmem, recordOk_of_running hrecord hrun (by simp [SameFault]), ?_,
      stackOk_of_sameStack hstack (by simp [SameStack])⟩
    simpa using hle
  · obtain ⟨hmem, -, hpc⟩ := hs
    exact ⟨hmem, State.enterFault_recordOk _ _ _ _ rfl, hpc⟩
  · obtain ⟨hmem, hrecord, -, hstack⟩ := sample_countdown_inv hs hrun
    have hpc := pc_le_of_fetch hf
    refine ⟨hmem, recordOk_of_running hrecord hrun ⟨rfl, rfl, rfl, rfl, rfl⟩, ?_, hstack⟩
    exact Nat.le_trans (add_two_le hpc) (by omega)
  · exact exec_inv (sample_countdown_inv hs hrun) hrun rfl (pc_le_of_fetch hf) hexec

end Sys2Proof.Machine
end

section
/-! PROOFS. Return, indexed jump, call and register skips (41_control_flow.md R160, R162, R165 to R167). -/

namespace Sys2Proof.Machine

/-- A fault entry, given the fault the instruction takes. -/
theorem exec_faultEntered {i : Instr} {s : State} (h : FaultWhen s i) :
    ∃ t, exec i s = .next t ∧ FaultEntered s t (s.faultOf i).1.code (encode i) (s.faultOf i).2 :=
  ⟨_, exec_of_fault h, s.raise_faultEntered _ _ i⟩

/-- Settles O33: the entry at SP - 1 becomes the pc and the stack keeps its entries; an empty stack is the fault. -/
theorem retReturns : Obligations.RetReturns := by
  refine fun s => ⟨fun hpos => ?_, fun hempty => exec_faultEntered (i := .ret) hempty⟩
  have htop : s.stack[s.sp.val - 1]? = some s.topOfStack := Vector.getElem?_eq_getElem _
  refine ⟨_, exec_ret_of_pos hpos, htop, s.pop_sp_val, ?_⟩
  simp [SameRegs, SameMemory, SameIndex, SameTimers, SameDisplay, SameKeypad, SameFault, SameInputs]

/-- Settles O36: the push writes the entry at SP and no other; a full stack is the fault. -/
theorem callPushes : Obligations.CallPushes := by
  refine fun nnn s => ⟨fun hroom => ?_, fun hfull => exec_faultEntered (i := .call nnn) hfull⟩
  obtain ⟨hsp, hstack⟩ := s.push_of_lt (s.pc + 2) hroom
  refine ⟨_, exec_call_of_lt nnn hroom, zextAddr_toNat nnn, hsp, ?_, fun j hj => ?_, ?_⟩
  · rw [State.jump_stack, hstack, Vector.getElem?_set_self hroom]
  · rw [State.jump_stack, hstack, Vector.getElem?_set_ne hroom hj.symm]
  · simp [SameRegs, SameMemory, SameIndex, SameTimers, SameDisplay, SameKeypad, SameFault, SameInputs]

/-- Settles O35: the sum fits a word, and a jump writes pc alone. -/
theorem jumpIndexed : Obligations.JumpIndexed := fun nnn s =>
  ⟨_, exec_of_not_fault (i := .jpV0 nnn) id, indexedTarget_toNat nnn _, s.jump_frame _⟩

/-- Settles O38: each skip's test as the equality it decides, and the low digit as the decoder's field N. -/
theorem skipRegister : Obligations.SkipRegister := by
  intro x y s
  have heq : (s.reg x == s.reg y) = true ↔ s.reg x = s.reg y := beq_iff_eq
  have hne : (s.reg x != s.reg y) = true ↔ s.reg x ≠ s.reg y := bne_iff_ne
  refine ⟨⟨_, exec_of_not_fault (i := .seReg x y) id, s.skipWhen_pc_of_iff heq, s.skipWhen_frame _⟩,
    ⟨_, exec_of_not_fault (i := .sneReg x y) id, s.skipWhen_pc_of_iff hne, s.skipWhen_frame _⟩,
    formatXY_toNat 5 x y 0, formatXY_toNat 9 x y 0, fun n hn => ⟨?_, ?_⟩⟩
  · exact (decode_eq_error_iff _ _).2 (.inr (.inl (by simpa using hn)))
  · exact (decode_eq_error_iff _ _).2 (.inr (.inr (.inr (.inl (by simpa using hn)))))

end Sys2Proof.Machine
end

section
/-! PROOFS. Register-register arithmetic, shifts and the random byte (42_alu.md R195 to R203). -/

namespace Sys2Proof.Machine

/-- Settles O41: one register write of the bitwise result. -/
theorem logicOps : Obligations.LogicOps := by
  intro x y s
  refine ⟨⟨_, exec_of_not_fault (i := .orReg x y) id, fun k => ?_, s.onlyRegs_setReg_advance x _⟩,
    ⟨_, exec_of_not_fault (i := .andReg x y) id, fun k => ?_, s.onlyRegs_setReg_advance x _⟩,
    ⟨_, exec_of_not_fault (i := .xorReg x y) id, fun k => ?_, s.onlyRegs_setReg_advance x _⟩⟩
  · rw [State.effect, State.reg_setReg_advance_self, BitVec.getLsbD_or]
  · rw [State.effect, State.reg_setReg_advance_self, BitVec.getLsbD_and]
  · rw [State.effect, State.reg_setReg_advance_self, BitVec.getLsbD_xor]

/-- Settles O45: one register write of the masked random byte. -/
theorem randomMasked : Obligations.RandomMasked := by
  intro x kk s
  refine ⟨_, exec_of_not_fault (i := .rnd x kk) id, fun k => ?_, s.onlyRegs_setReg_advance x _⟩
  rw [State.effect, State.reg_setReg_advance_self, BitVec.getLsbD_and]

/-! ### A result and its flag, then NEXT -/

theorem flagByte_toNat (f : Bool) : (flagByte f).toNat = if f = true then 1 else 0 := by
  cases f <;> rfl

/-- The value of a flag that decides a condition. -/
theorem flagByte_decide_toNat (p : Prop) [Decidable p] : (flagByte (decide p)).toNat = if p then 1 else 0 := by
  simp [flagByte_toNat]

/-- The flag is the last write, so it stands in VF even where VF is the destination (42_alu.md R190). -/
theorem State.setResultFlag_advance_VF (s : State) (x : Reg) (b : Byte) (f : Bool) :
    (s.setResultFlag x b f).advance.reg VF = flagByte f := by
  rw [State.reg_advance, State.reg_setResultFlag, if_pos rfl]

theorem State.setResultFlag_advance_result (s : State) {x : Reg} (b : Byte) (f : Bool) (hx : x ≠ VF) :
    (s.setResultFlag x b f).advance.reg x = b := by
  rw [State.reg_advance, State.reg_setResultFlag, if_neg hx, if_pos rfl]

theorem State.onlyRegs_setResultFlag_advance (s : State) (x : Reg) (b : Byte) (f : Bool) :
    OnlyRegs [x, VF] s (s.setResultFlag x b f).advance := by
  have hregs : SameRegsBut [x, VF] s (s.setResultFlag x b f).advance := fun q hq => by
    obtain ⟨hx, hF⟩ : q ≠ x ∧ q ≠ VF := by simpa using hq
    exact s.reg_setResultFlag_of_ne b f hx hF
  have hmem : SameMemory s (s.setResultFlag x b f).advance := fun a => by simp
  have hrest : SameRest s (s.setResultFlag x b f).advance := by
    simp [SameRest, SameTimers, SameStack, SameDisplay, SameKeypad, SameFault, SameInputs]
  exact ⟨rfl, hregs, hmem, rfl, hrest⟩

/-- Settles O42: the sum modulo 256, and the carry of the exact sum. -/
theorem addCarry : Obligations.AddCarry := by
  intro x y s
  refine ⟨_, exec_of_not_fault (i := .addReg x y) id, fun hx => ?_, ?_, s.onlyRegs_setResultFlag_advance x _ _⟩
  · rw [State.effect, s.setResultFlag_advance_result _ _ hx, BitVec.toNat_add]
  · rw [State.effect, State.setResultFlag_advance_VF, carryFlag, flagByte_decide_toNat]

theorem toNat_sub_byte (a b : Byte) : (a - b).toNat = (256 + a.toNat - b.toNat) % 256 := by
  rw [BitVec.toNat_sub]
  omega

/-- Settles O43: the difference modulo 256, and the strict comparison of the operands. -/
theorem subtractNotBorrow : Obligations.SubtractNotBorrow := by
  intro x y s
  refine ⟨⟨_, exec_of_not_fault (i := .subReg x y) id, fun hx => ?_, ?_, s.onlyRegs_setResultFlag_advance x _ _⟩,
    ⟨_, exec_of_not_fault (i := .subnReg x y) id, fun hx => ?_, ?_, s.onlyRegs_setResultFlag_advance x _ _⟩⟩
  · rw [State.effect, s.setResultFlag_advance_result _ _ hx, toNat_sub_byte]
  · rw [State.effect, State.setResultFlag_advance_VF, notBorrowFlag, flagByte_decide_toNat]
  · rw [State.effect, s.setResultFlag_advance_result _ _ hx, toNat_sub_byte]
  · rw [State.effect, State.setResultFlag_advance_VF, notBorrowFlag, flagByte_decide_toNat]

theorem shiftRightFlag_toNat (b : Byte) : (flagByte (shiftRightFlag b)).toNat = b.toNat % 2 := by
  rw [shiftRightFlag, BitVec.getLsbD, Nat.testBit_zero, flagByte_decide_toNat]
  split <;> omega

theorem shiftLeftFlag_toNat (b : Byte) : (flagByte (shiftLeftFlag b)).toNat = b.toNat / 128 := by
  have hb := b.isLt
  rw [shiftLeftFlag, BitVec.getLsbD, Nat.testBit_eq_decide_div_mod_eq, flagByte_decide_toNat]
  split <;> omega

/-- Settles O44: the shifted byte and the bit shifted out; the meaning does not mention y. -/
theorem shiftsByOne : Obligations.ShiftsByOne := by
  intro x y s
  refine ⟨⟨_, exec_of_not_fault (i := .shr x y) id, fun hx => ?_, ?_, s.onlyRegs_setResultFlag_advance x _ _,
      fun z => exec_of_not_fault (i := .shr x z) id⟩,
    ⟨_, exec_of_not_fault (i := .shl x y) id, fun hx => ?_, ?_, s.onlyRegs_setResultFlag_advance x _ _,
      fun z => exec_of_not_fault (i := .shl x z) id⟩⟩
  · rw [State.effect, s.setResultFlag_advance_result _ _ hx, BitVec.toNat_ushiftRight, Nat.shiftRight_one]
  · rw [State.effect, State.setResultFlag_advance_VF, shiftRightFlag_toNat]
  · rw [State.effect, s.setResultFlag_advance_result _ _ hx, BitVec.toNat_shiftLeft, Nat.shiftLeft_eq]
    omega
  · rw [State.effect, State.setResultFlag_advance_VF, shiftLeftFlag_toNat]

end Sys2Proof.Machine
end

section
/-! PROOFS. The index register and the memory transfers (43_index_memory.md R232 to R237; 20_memory.md section 5). -/

namespace Sys2Proof.Machine

/-! ### Index arithmetic -/

/-- Settles O47: I modulo 2^16, the flag of the exact sum, and VF the only register written. -/
theorem addIndex : Obligations.AddIndex := by
  intro x s
  have hVF : (s.effect (.addI x)).reg VF = flagByte (indexOverflowFlag s.params.fx1eLimit s.i (s.reg x)) :=
    (State.reg_setFlag _ _ VF).trans (if_pos rfl)
  have hregs : SameRegsBut [VF] s (s.effect (.addI x)) := fun _ hq => s.effect_reg (List.ne_of_not_mem_cons hq)
  have hmem : SameMemory s (s.effect (.addI x)) := s.effect_readByte (.addI x)
  have hrest : SameRest s (s.effect (.addI x)) := by
    simp [State.effect, SameRest, SameTimers, SameStack, SameDisplay, SameKeypad, SameFault, SameInputs]
  refine ⟨_, exec_of_not_fault (i := .addI x) id, ?_, ?_, s.effect_pc _, hregs, hmem, hrest⟩
  · show (s.i + zextByte (s.reg x)).toNat = _
    rw [BitVec.toNat_add, zextByte_toNat]
  · rw [hVF, indexOverflowFlag, flagByte_decide_toNat]

/-- Settles O48: I takes the glyph address, and nothing else but pc changes. -/
theorem fontIndex : Obligations.FontIndex := by
  intro x s
  obtain ⟨hregs, hmem, hrest⟩ := s.with_i_advance_frame (glyphAddr (s.reg x))
  exact ⟨_, exec_of_not_fault (i := .ldF x) id, glyphAddr_toNat _, s.effect_pc (.ldF x), hregs, hmem, hrest⟩

/-! ### Stores -/

/-- A store of bytes changes memory alone. -/
theorem State.writeBytes_frame (s : State) (a : Nat) (bs : List Byte) :
    let t := s.writeBytes a bs
    t.pc = s.pc ∧ SameRegs s t ∧ SameIndex s t ∧ SameRest s t := by
  simp [SameRegs, SameIndex, SameRest, SameTimers, SameStack, SameDisplay, SameKeypad, SameFault, SameInputs]

theorem State.writeBytes_advance_frame (s : State) (a : Nat) (bs : List Byte) :
    let t := (s.writeBytes a bs).advance
    t.pc = s.pc + 2 ∧ SameRegs s t ∧ SameIndex s t ∧ SameRest s t := by
  obtain ⟨hpc, hframe⟩ := s.writeBytes_frame a bs
  exact ⟨congrArg (· + 2) hpc, hframe⟩

/-- Settles O49: the bytes a decimal store leaves are those of `byteAfter`, digit by digit. -/
theorem storeDecimal : Obligations.StoreDecimal := by
  refine fun x s => ⟨fun hroom => ?_, fun hfault => exec_faultEntered (i := .ldB x) hfault⟩
  have hb := (s.reg x).isLt
  have hread := s.effect_readByte (.ldB x)
  refine ⟨_, exec_of_not_fault (i := .ldB x) (Nat.not_lt.2 hroom), ?_, ?_, ?_, fun a ha => ?_,
    s.writeBytes_advance_frame _ _⟩
  · rw [hread, byteAfter, if_pos rfl, BitVec.toNat_ofNat, Nat.mod_eq_of_lt (by omega)]
  · rw [hread, byteAfter, if_neg (by omega), if_pos rfl, BitVec.toNat_ofNat, Nat.mod_eq_of_lt (by omega)]
  · rw [hread, byteAfter, if_neg (by omega), if_neg (by omega), if_pos rfl, BitVec.toNat_ofNat,
      Nat.mod_eq_of_lt (by omega)]
  · rw [hread, byteAfter_of_not_storesTo (by simp only [StoresTo]; omega)]

/-- Settles O50: the bytes a register store leaves are those of `byteAfter`, register by register. -/
theorem storeRegisters : Obligations.StoreRegisters := by
  refine fun x s => ⟨fun hroom => ?_, fun hfault => exec_faultEntered (i := .storeRegs x) hfault⟩
  have hread := s.effect_readByte (.storeRegs x)
  refine ⟨_, exec_of_not_fault (i := .storeRegs x) (Nat.not_lt.2 hroom), fun r hr => ?_, fun a ha => ?_,
    s.writeBytes_advance_frame _ _⟩
  · rw [hread, byteAfter, if_pos (by omega), Nat.add_sub_cancel_left, BitVec.ofNat_toNat, BitVec.setWidth_eq]
  · rw [hread, byteAfter_of_not_storesTo (by simp only [StoresTo]; omega)]

/-! ### Loads -/

/-- Settles O51: the registers up to x read the bytes from I on, the higher ones are outside the loop. -/
theorem loadRegisters : Obligations.LoadRegisters := by
  refine fun x s => ⟨fun hroom => ?_, fun hfault => exec_faultEntered (i := .loadRegs x) hfault⟩
  have hx := x.isLt
  have hreg : ∀ r : Reg, (s.effect (.loadRegs x)).reg r =
      if r.toNat < x.toNat + 1 then s.readByte (s.i.toNat + r.toNat) else s.reg r := fun r =>
    s.reg_loadRegsFrom (effAddr s.i 0) (x.toNat + 1) (by omega) r
  refine ⟨_, exec_of_not_fault (i := .loadRegs x) (Nat.not_lt.2 hroom), fun r hr => ?_, fun r hr => ?_,
    s.effect_pc _, s.effect_readByte _, s.effect_i (by simp) (by simp) (by simp), ?_⟩
  · rw [hreg, if_pos (by omega)]
  · rw [hreg, if_neg (by omega)]
  · simp [State.effect, SameRest, SameTimers, SameStack, SameDisplay, SameKeypad, SameFault, SameInputs]

/-! ### A store and the next fetch -/

/-- Settles O52: the fetch reads the bytes of `byteAfter`, wherever pc is, and the step runs the word they make. -/
theorem storeThenFetch : Obligations.StoreThenFetch := by
  refine fun i s hf => ⟨_, exec_of_not_fault hf, fun t' hpc hmem => ?_⟩
  have hbyte : ∀ a, t'.readByte a = byteAfter s a i := fun a => (hmem a).trans (s.effect_readByte i a)
  have hfetch := fetch_eq_some hpc
  rw [hbyte, hbyte] at hfetch
  exact ⟨hfetch, fun j hrun hwait hd => step_of_decoded hrun hwait hfetch hd⟩

end Sys2Proof.Machine
end

section
/-! PROOFS. Drawing (44_display.md R261 to R263). -/

namespace Sys2Proof.Machine

/-! ### A drawing in the words of the statements -/

theorem spriteHits_iff_spriteLit (s : State) (x y : Reg) (n : Count) (px py : Nat) :
    spriteHits (fun r => s.readByte (effAddr s.i r)) (s.reg x).toNat (s.reg y).toNat n.toNat px py ↔
      SpriteLit s x y n px py := by
  constructor
  · rintro ⟨r, hr, hpy, c, hc, hbit, hpx⟩
    exact ⟨r, c, hr, hc, hbit, hpx, hpy⟩
  · rintro ⟨r, c, hr, hc, hbit, hpx, hpy⟩
    exact ⟨r, hr, hpy, c, hc, hbit, hpx⟩

/-- A drawing toggles exactly the pixels its sprite lights. -/
theorem State.drawing_pixel (s : State) (x y : Reg) (n : Count) {px py : Nat} (hx : px < 64) (hy : py < 32) :
    pixel (s.drawing x y n).fb px py = true ↔ (pixel s.fb px py = true ↔ ¬ SpriteLit s x y n px py) := by
  have hn := n.isLt
  obtain ⟨hpixel, -⟩ := Drawing.sprite_spec (fun r => s.readByte (effAddr s.i r)) (s.reg x).toNat (s.reg y).toNat
    ⟨s.fb, false⟩ n.toNat (by omega)
  rw [← spriteHits_iff_spriteLit]
  exact hpixel px py hx hy

/-- A drawing reports a collision exactly when some pixel it toggles was set. -/
theorem State.drawing_col (s : State) (x y : Reg) (n : Count) :
    (s.drawing x y n).col = true ↔ SpriteCollides s x y n := by
  have hn := n.isLt
  obtain ⟨-, hcol⟩ := Drawing.sprite_spec (fun r => s.readByte (effAddr s.i r)) (s.reg x).toNat (s.reg y).toNat
    ⟨s.fb, false⟩ n.toNat (by omega)
  simp only [spriteHits_iff_spriteLit] at hcol
  rw [State.drawing, hcol, SpriteCollides]
  constructor
  · rintro (h | ⟨px, hx, py, hy, h⟩)
    · cases h
    · exact ⟨px, py, hx, hy, h⟩
  · rintro ⟨px, py, hx, hy, h⟩
    exact .inr ⟨px, hx, py, hy, h⟩

theorem State.effect_drw_VF (s : State) (x y : Reg) (n : Count) :
    (s.effect (.drw x y n)).reg VF = flagByte (s.drawing x y n).col :=
  (s.reg_present _ VF).trans (if_pos rfl)

/-- VF after a draw is the collision flag (44_display.md R262). -/
theorem State.effect_drw_VF_eq_one_iff (s : State) (x y : Reg) (n : Count) :
    (s.effect (.drw x y n)).reg VF = 1 ↔ SpriteCollides s x y n := by
  rw [State.effect_drw_VF, ← State.drawing_col]
  cases (s.drawing x y n).col <;> decide

theorem State.effect_drw_VF_eq_zero_iff (s : State) (x y : Reg) (n : Count) :
    (s.effect (.drw x y n)).reg VF = 0 ↔ ¬ SpriteCollides s x y n := by
  rw [State.effect_drw_VF, ← State.drawing_col]
  cases (s.drawing x y n).col <;> decide

/-- Settles O54: the pixels of the drawing, its collision flag, and what a draw leaves; past 0xFFF it is the fault. -/
theorem drawSprite : Obligations.DrawSprite := by
  refine fun x y n s => ⟨fun hf => ?_, fun hf => exec_faultEntered hf⟩
  have hregs : SameRegsBut [VF] s (s.effect (.drw x y n)) := fun _ hq => s.effect_reg (List.ne_of_not_mem_cons hq)
  refine ⟨_, exec_of_not_fault hf, fun px py hx hy => ?_, (s.effect_drw_VF_eq_one_iff x y n).2,
    (s.effect_drw_VF_eq_zero_iff x y n).2, rfl, s.effect_pc _, hregs, s.effect_readByte _, rfl, ⟨rfl, rfl⟩, ⟨rfl, rfl⟩,
    ⟨rfl, rfl, rfl⟩, s.effect_sameFault _, s.effect_sameInputs _⟩
  have hpixel := s.drawing_pixel x y n hx hy
  show (_ → pixel (s.drawing x y n).fb px py = _) ∧ (_ → pixel (s.drawing x y n).fb px py = _)
  refine ⟨fun hlit => ?_, fun hdark => ?_⟩
  · rw [Bool.eq_iff_iff, hpixel]
    simp [hlit]
  · rw [Bool.eq_iff_iff, hpixel]
    simp [hdark]

/-! ### The laws of the blitter -/

/-- A sprite is its bytes, I and its position (44_display.md R261). -/
theorem spriteLit_congr {s t : State} {x y : Reg} {n : Count} (hi : t.i = s.i) (hmem : SameMemory s t)
    (hx : t.reg x = s.reg x) (hy : t.reg y = s.reg y) (px py : Nat) :
    SpriteLit t x y n px py ↔ SpriteLit s x y n px py := by
  unfold SpriteLit
  rw [hi, hx, hy]
  simp only [hmem _]

/-- A sprite has a 1 bit exactly when it lights some pixel of the screen: the placement wraps (44_display.md R261). -/
theorem exists_spriteLit_iff (s : State) (x y : Reg) (n : Count) :
    (∃ px py, px < 64 ∧ py < 32 ∧ SpriteLit s x y n px py) ↔
      ∃ r c : Nat, r < n.toNat ∧ c < 8 ∧ (s.readByte (s.i.toNat + r)).getLsbD (7 - c) = true := by
  constructor
  · rintro ⟨-, -, -, -, r, c, hr, hc, hbit, -⟩
    exact ⟨r, c, hr, hc, hbit⟩
  · rintro ⟨r, c, hr, hc, hbit⟩
    exact ⟨_, _, Nat.mod_lt _ (by omega), Nat.mod_lt _ (by omega), r, c, hr, hc, hbit, rfl, rfl⟩

/-- Settles O55: the second draw toggles the same pixels, and collides where the first one set one. -/
theorem drawTwice : Obligations.DrawTwice := by
  refine fun x y n s hf => ⟨_, exec_of_not_fault hf, fun t' hfb hi hmem hx hy => ?_⟩
  have hfb' : t'.fb = (s.drawing x y n).fb := hfb
  have hf' : ¬ FaultWhen t' (.drw x y n) := by simpa only [FaultWhen, hi] using hf
  have hlit : ∀ px py, SpriteLit t' x y n px py ↔ SpriteLit s x y n px py := spriteLit_congr hi hmem hx hy
  have hVF : (t'.effect (.drw x y n)).reg VF = 1 ↔
      ∃ px py, px < 64 ∧ py < 32 ∧ SpriteLit s x y n px py ∧ pixel s.fb px py = false := by
    rw [State.effect_drw_VF_eq_one_iff, SpriteCollides, hfb']
    refine exists_congr fun px => exists_congr fun py => and_congr_right fun hpx => and_congr_right fun hpy => ?_
    rw [hlit, s.drawing_pixel x y n hpx hpy]
    refine and_congr_right fun h => ?_
    simp [h]
  refine ⟨_, exec_of_not_fault hf', fb_ext fun px py hpx hpy => ?_, hVF, fun hclear => ?_⟩
  · show pixel (t'.drawing x y n).fb px py = true ↔ _
    rw [t'.drawing_pixel x y n hpx hpy, hfb', s.drawing_pixel x y n hpx hpy, hlit]
    tauto
  · rw [hVF, ← exists_spriteLit_iff s x y n]
    refine exists_congr fun px => exists_congr fun py => and_congr_right fun hpx => and_congr_right fun hpy => ?_
    exact ⟨fun h => h.1, fun h => ⟨h, hclear px py hpx hpy h⟩⟩

/-- Settles O56: on a clear screen no lit pixel was set, and the toggled pixels are the set ones. -/
theorem clearThenDraw : Obligations.ClearThenDraw := by
  intro x y n s hf
  have hlit : ∀ px py, SpriteLit (s.effect .cls) x y n px py ↔ SpriteLit s x y n px py :=
    spriteLit_congr rfl (fun _ => rfl) rfl rfl
  have hclear : ∀ px py, pixel (s.effect .cls).fb px py = false := pixel_blankScreen
  refine ⟨_, _, exec_of_not_fault (i := .cls) id, exec_of_not_fault hf,
    (State.effect_drw_VF_eq_zero_iff _ x y n).2 ?_, fun px py hx hy => ?_⟩
  · rintro ⟨px, py, -, -, -, hset⟩
    rw [hclear] at hset
    cases hset
  · show pixel (State.drawing _ x y n).fb px py = true ↔ _
    rw [State.drawing_pixel _ x y n hx hy, hclear, hlit]
    simp

end Sys2Proof.Machine
end

section
/-! PROOFS. Key skips, timers and the entry of the keypad wait (45_timers_keypad.md R280 to R286). -/

namespace Sys2Proof.Machine

/-- Settles O57: each skip's test on the snapshot; a key index out of range is the fault of both. -/
theorem skipKey : Obligations.SkipKey := by
  refine fun x s => ⟨fun hkey => ⟨?_, ?_⟩, fun hkey => ⟨exec_faultEntered (i := .skp x) hkey,
    exec_faultEntered (i := .sknp x) hkey⟩⟩
  · exact ⟨_, exec_of_not_fault (i := .skp x) (Nat.not_lt.2 hkey), s.skipWhen_pc_of_iff Iff.rfl, s.skipWhen_frame _⟩
  · have hup : (!s.keyDown (s.reg x).toNat) = true ↔ s.keypad.getLsbD (s.reg x).toNat = false := by
      simp [State.keyDown]
    exact ⟨_, exec_of_not_fault (i := .sknp x) (Nat.not_lt.2 hkey), s.skipWhen_pc_of_iff hup, s.skipWhen_frame _⟩

/-- Settles O58: one register write, or one timer write that leaves the other timer. -/
theorem timerMoves : Obligations.TimerMoves := by
  refine fun x s => ⟨⟨_, exec_of_not_fault (i := .ldVxDt x) id, s.reg_setReg_advance_self x _,
      s.onlyRegs_setReg_advance x _⟩,
    ⟨_, exec_of_not_fault (i := .ldDtVx x) id, rfl, s.effect_st (by simp), s.effect_pc _, fun _ => s.effect_reg id,
      s.effect_readByte _, s.effect_i (by simp) (by simp) (by simp), s.effect_sameStack (by simp) (by simp),
      s.effect_sameDisplay (by simp) (by simp), ?_, s.effect_sameFault _, s.effect_sameInputs _⟩,
    ⟨_, exec_of_not_fault (i := .ldStVx x) id, rfl, s.effect_dt (by simp), s.effect_pc _, fun _ => s.effect_reg id,
      s.effect_readByte _, s.effect_i (by simp) (by simp) (by simp), s.effect_sameStack (by simp) (by simp),
      s.effect_sameDisplay (by simp) (by simp), ?_, s.effect_sameFault _, s.effect_sameInputs _⟩⟩
  · exact ⟨s.effect_keypad _, s.effect_latch (by simp)⟩
  · exact ⟨s.effect_keypad _, s.effect_latch (by simp)⟩

/-- Settles O59: the latch is the only thing written besides pc, whatever the snapshot holds. -/
theorem enterWait : Obligations.EnterWait := fun x s =>
  ⟨_, exec_of_not_fault (i := .ldVxK x) id, rfl, rfl, s.effect_keypad _, s.effect_pc _, fun _ => s.effect_reg id,
    s.effect_readByte _, s.effect_i (by simp) (by simp) (by simp), ⟨s.effect_dt (by simp), s.effect_st (by simp)⟩,
    s.effect_sameStack (by simp) (by simp), s.effect_sameDisplay (by simp) (by simp), s.effect_sameFault _,
    s.effect_sameInputs _⟩

end Sys2Proof.Machine
end

section
/-! PROOFS. The host's Load and the session around it (20_memory.md R90, R91; 10_state.md R60). -/

namespace Sys2Proof.Machine

/-- A Load before the first step writes its bytes when the whole request fits (20_memory.md R90). -/
theorem Session.load_of_fits {p : Session} (h : p.stepped = false) {q : LoadRequest}
    (hfits : q.offset + q.bytes.length ≤ 4096) :
    p.load q = .next { core := p.core.writeBytes q.offset q.bytes, stepped := false } := by
  have hcheck : q.fits = true := decide_eq_true hfits
  rw [Session.load_of_not_stepped h, State.load, if_pos hcheck, Session.settle]

/-- A Load that does not fit writes nothing. -/
theorem Session.load_of_not_fits {p : Session} (h : p.stepped = false) {q : LoadRequest}
    (hfits : 4096 < q.offset + q.bytes.length) : p.load q = .refused .loadOutOfBounds := by
  have hcheck : ¬ q.fits = true := fun e => absurd (of_decide_eq_true e) (by omega)
  rw [Session.load_of_not_stepped h, State.load, if_neg hcheck, Session.settle]

theorem State.readByte_writeBytes_getElem? (s : State) (a : Nat) (bs : List Byte) {k : Nat} (hk : k < bs.length) :
    some ((s.writeBytes a bs).readByte (a + k)) = bs[k]? := by
  rw [State.readByte_writeBytes, dif_pos (by omega), List.getElem?_eq_getElem hk]
  simp

/-- Settles O60: the Load before the first step, fitting or not, the refusal after it, and the byte port as the Load of
one byte, whose 12-bit address always fits. -/
theorem hostLoad : Obligations.HostLoad := by
  refine fun q p => ⟨fun hfresh hfits => ?_, fun hfresh => Session.load_of_not_fits hfresh,
    fun hstepped => Session.load_of_stepped hstepped q, fun hfresh addr b => ?_,
    fun hstepped addr b => Session.load_of_stepped hstepped _, fun inp p' h => ?_, rfl⟩
  · obtain ⟨hpc, hregs, hindex, hrest⟩ := p.core.writeBytes_frame q.offset q.bytes
    exact ⟨_, Session.load_of_fits hfresh hfits, fun k hk => p.core.readByte_writeBytes_getElem? _ _ hk,
      fun a ha => State.readByte_writeBytes_outside _ _ _ a ha, hpc, hregs, hindex, hrest,
      fun hmem => State.writeBytes_memOk _ _ _ hmem hfits⟩
  · have haddr := addr.isLt
    refine ⟨_, Session.load_of_fits hfresh (Nat.succ_le_of_lt haddr), fun a => ?_⟩
    exact State.readByte_writeByte p.core addr.toNat a b
  · obtain ⟨-, hstepped⟩ := Session.settle_eq_next h
    exact hstepped

end Sys2Proof.Machine
end
